-- ==== Sys2Proof/Config.lean ====
section
/-! DEFINITION. The parameters of spec/00_scope.md R4, each a named constant (the two OPEN ones are
`FONT`, an argument with a default, and `IPS`), and the free value of the random source. -/

namespace Sys2Proof.Config

/-- `MEM_SIZE`: bytes of memory, addresses 0 to 4095. -/
@[simp] abbrev memSize : Nat := 4096

/-- `REG_WIDTH`: bits in a general register, in each timer, and in the byte of memory they are moved to and from. -/
@[simp] abbrev regWidth : Nat := 8

/-- `I_WIDTH`: bits in the index register. -/
@[simp] abbrev iWidth : Nat := 16

/-- `PC_WIDTH`: bits in the program counter. -/
@[simp] abbrev pcWidth : Nat := 16

/-- `STACK_WIDTH`: bits in a stack entry. -/
@[simp] abbrev stackWidth : Nat := 16

/-- `NREGS`: general registers. -/
@[simp] abbrev nRegs : Nat := 16

/-- What an address of memory that is not listed reads as: reset zeroes memory (spec/10_state.md R38). -/
@[simp] abbrev unlistedByte : BitVec regWidth := 0

/-- `PROG_BASE`: where a program is loaded, and `pc` after reset. -/
@[simp] abbrev progBase : Nat := 0x200

/-- `PROG_MAX`: the largest program in bytes, `MEM_SIZE - PROG_BASE`. -/
@[simp] abbrev progMax : Nat := 3584

/-- `FLAG_REG`: the register that receives flags. -/
@[simp] abbrev flagReg : Fin nRegs := 0xF

/-- `STACK_DEPTH`: return addresses the stack can hold (spec/90_conflicts.md C2; notes/assumptions/13.md). -/
@[simp] abbrev stackDepth : Nat := 1024

/-- `DISP_W`: columns of the display. -/
@[simp] abbrev dispW : Nat := 64

/-- `DISP_H`: rows of the display. -/
@[simp] abbrev dispH : Nat := 32

/-- `SPRITE_W`: pixels in a sprite row. -/
@[simp] abbrev spriteW : Nat := 8

/-- `INSTR_BYTES`: bytes in an instruction word. -/
@[simp] abbrev instrBytes : Nat := 2

/-- `NKEYS`: logical keys of the keypad. -/
@[simp] abbrev nKeys : Nat := 16

/-- `FONT_BASE`: address of the first font byte. -/
@[simp] abbrev fontBase : Nat := 0x000

/-- `FONT_BYTES`: bytes of font data. -/
@[simp] abbrev fontBytes : Nat := 80

/-- `GLYPH_BYTES`: bytes of one glyph. -/
@[simp] abbrev glyphBytes : Nat := 5

/-- `TICK_HZ`: nominal tick rate; no rule of the model depends on it (spec/70_reset_and_hazards.md R274). -/
@[simp] abbrev tickHz : Nat := 60

/-- `IPS`: instructions per second of the executor. OPEN: the spec gives no value (spec/92_eei_decisions.md D19), so it has
no body here, and no rule of the model uses it (spec/70_reset_and_hazards.md R274; notes/assumptions/17.md). -/
opaque ips : Nat

/-- The default of the open parameter `FONT` (spec/42_random_and_index.md R164; notes/assumptions/14.md). -/
def defaultFont : Vector (BitVec regWidth) fontBytes := #v[
  0xF0, 0x90, 0x90, 0x90, 0xF0,  0x20, 0x60, 0x20, 0x20, 0x70,
  0xF0, 0x10, 0xF0, 0x80, 0xF0,  0xF0, 0x10, 0xF0, 0x10, 0xF0,
  0x90, 0x90, 0xF0, 0x10, 0x10,  0xF0, 0x80, 0xF0, 0x10, 0xF0,
  0xF0, 0x80, 0xF0, 0x90, 0xF0,  0xF0, 0x10, 0x20, 0x40, 0x40,
  0xF0, 0x90, 0xF0, 0x90, 0xF0,  0xF0, 0x90, 0xF0, 0x10, 0xF0,
  0xF0, 0x90, 0xF0, 0x90, 0x90,  0xE0, 0x90, 0xE0, 0x90, 0xE0,
  0xF0, 0x80, 0x80, 0x80, 0xF0,  0xE0, 0x90, 0x90, 0x90, 0xE0,
  0xF0, 0x80, 0xF0, 0x80, 0xF0,  0xF0, 0x80, 0xF0, 0x80, 0x80]

/-- FREE VALUE (spec/93_implementation_defined.md U1): the byte that the `n`-th draw of the random source gives when the
host has queued none. It has no body, so a claim about it holds for every value (notes/assumptions/4.md). -/
opaque freeRandom : Nat → BitVec regWidth

end Sys2Proof.Config
end

