-- ==== Sys2Proof/Word.lean ====
section
/-! DEFINITION. The word types of the machine: bytes, 16-bit words, 12-bit addresses, register and key numbers. -/

namespace Sys2Proof

/-- A register, timer or memory byte: 8 bits, unsigned (spec/00_scope.md R4 `REG_WIDTH`, spec/10_state.md R20, R33). -/
abbrev Byte := BitVec Config.regWidth

/-- An instruction word: 16 bits (spec/30_encoding.md R90). `I`, `pc` and a stack entry have the same width, each by its
own parameter (spec/00_scope.md R4 `I_WIDTH`, `PC_WIDTH`, `STACK_WIDTH`; `State`). -/
abbrev Word := BitVec 16

/-- The field `NNN`: a 12-bit address (spec/30_encoding.md R96). -/
abbrev Addr12 := BitVec 12

/-- A general register's number, 0 to 15 (spec/10_state.md R20, spec/30_encoding.md R93). -/
abbrev Reg := Fin Config.nRegs

/-- A logical key's number, 0 to 15 (spec/45_keypad_and_timers.md R206). -/
abbrev Key := Fin Config.nKeys

end Sys2Proof
end

