-- ==== Sys2Proof/Syntax.lean ====
section
/-! DEFINITION. The instructions: one constructor per row of spec/opcode_table.json (spec/30_encoding.md R99). -/

namespace Sys2Proof

/-- The 34 instructions with their decoded fields: `x`, `y` register numbers (R93), `nn` the immediate byte (R95), `nnn`
the 12-bit address (R96), `n` the number of sprite rows (R94; a count, 0 to 15 in a well-formed term). The shifts have no
`y`: all 16 values of that nibble are the same instruction (R98). -/
inductive Instr where
  | cls                              -- 00E0  CLS
  | ret                              -- 00EE  RET
  | jp (nnn : Addr12)                -- 1NNN  JP NNN
  | call (nnn : Addr12)              -- 2NNN  CALL NNN
  | seImm (x : Reg) (nn : Byte)      -- 3XNN  SE Vx, NN
  | sneImm (x : Reg) (nn : Byte)     -- 4XNN  SNE Vx, NN
  | seReg (x y : Reg)                -- 5XY0  SE Vx, Vy
  | ldImm (x : Reg) (nn : Byte)      -- 6XNN  LD Vx, NN
  | addImm (x : Reg) (nn : Byte)     -- 7XNN  ADD Vx, NN
  | ldReg (x y : Reg)                -- 8XY0  LD Vx, Vy
  | orReg (x y : Reg)                -- 8XY1  OR Vx, Vy
  | andReg (x y : Reg)               -- 8XY2  AND Vx, Vy
  | xorReg (x y : Reg)               -- 8XY3  XOR Vx, Vy
  | addReg (x y : Reg)               -- 8XY4  ADD Vx, Vy
  | subReg (x y : Reg)               -- 8XY5  SUB Vx, Vy
  | shr (x : Reg)                    -- 8XY6  SHR Vx
  | subn (x y : Reg)                 -- 8XY7  SUBN Vx, Vy
  | shl (x : Reg)                    -- 8XYE  SHL Vx
  | sneReg (x y : Reg)               -- 9XY0  SNE Vx, Vy
  | ldI (nnn : Addr12)               -- ANNN  LD I, NNN
  | jpV0 (nnn : Addr12)              -- BNNN  JP V0, NNN
  | rnd (x : Reg) (nn : Byte)        -- CXNN  RND Vx, NN
  | drw (x y : Reg) (n : Nat)        -- DXYN  DRW Vx, Vy, N
  | skp (x : Reg)                    -- EX9E  SKP Vx
  | sknp (x : Reg)                   -- EXA1  SKNP Vx
  | ldVxDt (x : Reg)                 -- FX07  LD Vx, DT
  | ldVxK (x : Reg)                  -- FX0A  LD Vx, K
  | ldDtVx (x : Reg)                 -- FX15  LD DT, Vx
  | ldStVx (x : Reg)                 -- FX18  LD ST, Vx
  | addI (x : Reg)                   -- FX1E  ADD I, Vx
  | ldF (x : Reg)                    -- FX29  LD F, Vx
  | ldB (x : Reg)                    -- FX33  LD B, Vx
  | dump (x : Reg)                   -- FX55  LD [I], Vx
  | load (x : Reg)                   -- FX65  LD Vx, [I]
deriving DecidableEq, Repr

end Sys2Proof
end

