-- ==== Sys2Proof/Decode.lean ====
section
/-! DEFINITION. The decoder (spec/30_encoding.md R90 to R100), total on every word and on any bytes, and the encoder
written from the same table R99. -/

namespace Sys2Proof

/-- `word[hi:lo]` as an unsigned number (spec/00_scope.md section 5). -/
def slice (w : Word) (hi lo : Nat) : Nat := w.toNat / 2 ^ lo % 2 ^ (hi + 1 - lo)

/-- `X = word[11:8]` (R93). -/
def fieldX (w : Word) : Reg := Fin.ofNat Config.nRegs (slice w 11 8)

/-- `Y = word[7:4]` (R93). -/
def fieldY (w : Word) : Reg := Fin.ofNat Config.nRegs (slice w 7 4)

/-- `N = word[3:0]` (R94). -/
def fieldN (w : Word) : Nat := slice w 3 0

/-- `NN = word[7:0]` (R95). -/
def fieldNN (w : Word) : Byte := BitVec.ofNat 8 (slice w 7 0)

/-- `NNN = word[11:0]` (R96). -/
def fieldNNN (w : Word) : Addr12 := BitVec.ofNat 12 (slice w 11 0)

/-- Class 0: only the two whole words are instructions (R98, R100). -/
def decodeClass0 (w : Word) : Option Instr :=
  match w.toNat with
  | 0x00E0 => some .cls
  | 0x00EE => some .ret
  | _ => none

/-- Class 8: the low nibble is the sub-opcode; `Y` is no operand of the two shifts (R98). -/
def decodeClass8 (w : Word) : Option Instr :=
  match fieldN w with
  | 0x0 => some (.ldReg (fieldX w) (fieldY w))
  | 0x1 => some (.orReg (fieldX w) (fieldY w))
  | 0x2 => some (.andReg (fieldX w) (fieldY w))
  | 0x3 => some (.xorReg (fieldX w) (fieldY w))
  | 0x4 => some (.addReg (fieldX w) (fieldY w))
  | 0x5 => some (.subReg (fieldX w) (fieldY w))
  | 0x6 => some (.shr (fieldX w))
  | 0x7 => some (.subn (fieldX w) (fieldY w))
  | 0xE => some (.shl (fieldX w))
  | _ => none

/-- Class E: the low byte is the sub-opcode (R98). -/
def decodeClassE (w : Word) : Option Instr :=
  match slice w 7 0 with
  | 0x9E => some (.skp (fieldX w))
  | 0xA1 => some (.sknp (fieldX w))
  | _ => none

/-- Class F: the low byte is the sub-opcode (R98). -/
def decodeClassF (w : Word) : Option Instr :=
  match slice w 7 0 with
  | 0x07 => some (.ldVxDt (fieldX w))
  | 0x0A => some (.ldVxK (fieldX w))
  | 0x15 => some (.ldDtVx (fieldX w))
  | 0x18 => some (.ldStVx (fieldX w))
  | 0x1E => some (.addI (fieldX w))
  | 0x29 => some (.ldF (fieldX w))
  | 0x33 => some (.ldB (fieldX w))
  | 0x55 => some (.dump (fieldX w))
  | 0x65 => some (.load (fieldX w))
  | _ => none

/-- `decode(word)` of R98: one of the 34 instructions with its fields, or `none` for `unknown`. The patterns are the
spec's general knowledge but for `6XNN` (notes/assumptions/15.md). -/
def decode (w : Word) : Option Instr :=
  match slice w 15 12 with
  | 0x0 => decodeClass0 w
  | 0x1 => some (.jp (fieldNNN w))
  | 0x2 => some (.call (fieldNNN w))
  | 0x3 => some (.seImm (fieldX w) (fieldNN w))
  | 0x4 => some (.sneImm (fieldX w) (fieldNN w))
  | 0x5 => if fieldN w = 0 then some (.seReg (fieldX w) (fieldY w)) else none
  | 0x6 => some (.ldImm (fieldX w) (fieldNN w))
  | 0x7 => some (.addImm (fieldX w) (fieldNN w))
  | 0x8 => decodeClass8 w
  | 0x9 => if fieldN w = 0 then some (.sneReg (fieldX w) (fieldY w)) else none
  | 0xA => some (.ldI (fieldNNN w))
  | 0xB => some (.jpV0 (fieldNNN w))
  | 0xC => some (.rnd (fieldX w) (fieldNN w))
  | 0xD => some (.drw (fieldX w) (fieldY w) (fieldN w))
  | 0xE => decodeClassE w
  | 0xF => decodeClassF w
  | _ => none

/-- Why bytes are no instruction: the word matches no row of R99 (R100), or there are fewer than two bytes (R90). -/
inductive Reject where
  | unknownInstruction (word : Word)
  | truncated
deriving DecidableEq, Repr

/-- The word of two bytes in memory order, the byte at the lower address the more significant (spec/20_memory.md R61). -/
def wordOfBytes (hi lo : Byte) : Word := BitVec.ofNat 16 (hi.toNat * 256 + lo.toNat)

/-- The more significant byte of a word, which stands at the lower address (spec/20_memory.md R64). -/
def highByte (w : Word) : Byte := BitVec.ofNat 8 (slice w 15 8)

/-- The less significant byte of a word, which stands at the higher address (spec/20_memory.md R64). -/
def lowByte (w : Word) : Byte := BitVec.ofNat 8 (slice w 7 0)

/-- Decoding from a list of bytes in memory order: the instruction and the bytes after it, or the reason there is none. -/
def decodeBytes : List Byte → Except Reject (Instr × List Byte)
  | hi :: lo :: rest =>
    match decode (wordOfBytes hi lo) with
    | some i => .ok (i, rest)
    | none => .error (.unknownInstruction (wordOfBytes hi lo))
  | [] | [_] => .error .truncated

/-- The instruction the decoder reads from a table word: one 16-bit word, laid out high byte first. -/
def decodeTableWord (_nbits w : Nat) : Option Instr :=
  match decodeBytes [highByte (BitVec.ofNat 16 w), lowByte (BitVec.ofNat 16 w)] with
  | .ok (i, _) => some i
  | .error _ => none

/-- A word of format `NNN` (R97). -/
def wordNNN (c : Nat) (nnn : Addr12) : Word := BitVec.ofNat 16 (c * 0x1000 + nnn.toNat)

/-- A word of format `XNN`, and of format `X` with its sub-opcode for `nn` (R97). -/
def wordXNN (c : Nat) (x : Reg) (nn : Nat) : Word := BitVec.ofNat 16 (c * 0x1000 + x.val * 0x100 + nn)

/-- A word of format `XYN`, and of format `XY` with its sub-opcode for `n` (R97). -/
def wordXYN (c : Nat) (x y : Reg) (n : Nat) : Word := BitVec.ofNat 16 (c * 0x1000 + x.val * 0x100 + y.val * 0x10 + n)

/-- The word of a well-formed instruction, from table R99; the shifts are written with `Y = 0` (R103). -/
def encode : Instr → Word
  | .cls => 0x00E0#16
  | .ret => 0x00EE#16
  | .jp nnn => wordNNN 0x1 nnn
  | .call nnn => wordNNN 0x2 nnn
  | .seImm x nn => wordXNN 0x3 x nn.toNat
  | .sneImm x nn => wordXNN 0x4 x nn.toNat
  | .seReg x y => wordXYN 0x5 x y 0x0
  | .ldImm x nn => wordXNN 0x6 x nn.toNat
  | .addImm x nn => wordXNN 0x7 x nn.toNat
  | .ldReg x y => wordXYN 0x8 x y 0x0
  | .orReg x y => wordXYN 0x8 x y 0x1
  | .andReg x y => wordXYN 0x8 x y 0x2
  | .xorReg x y => wordXYN 0x8 x y 0x3
  | .addReg x y => wordXYN 0x8 x y 0x4
  | .subReg x y => wordXYN 0x8 x y 0x5
  | .shr x => wordXYN 0x8 x 0 0x6
  | .subn x y => wordXYN 0x8 x y 0x7
  | .shl x => wordXYN 0x8 x 0 0xE
  | .sneReg x y => wordXYN 0x9 x y 0x0
  | .ldI nnn => wordNNN 0xA nnn
  | .jpV0 nnn => wordNNN 0xB nnn
  | .rnd x nn => wordXNN 0xC x nn.toNat
  | .drw x y n => wordXYN 0xD x y n
  | .skp x => wordXNN 0xE x 0x9E
  | .sknp x => wordXNN 0xE x 0xA1
  | .ldVxDt x => wordXNN 0xF x 0x07
  | .ldVxK x => wordXNN 0xF x 0x0A
  | .ldDtVx x => wordXNN 0xF x 0x15
  | .ldStVx x => wordXNN 0xF x 0x18
  | .addI x => wordXNN 0xF x 0x1E
  | .ldF x => wordXNN 0xF x 0x29
  | .ldB x => wordXNN 0xF x 0x33
  | .dump x => wordXNN 0xF x 0x55
  | .load x => wordXNN 0xF x 0x65

/-- The two bytes of an instruction in memory order (R90). -/
def encodeBytes (i : Instr) : List Byte := [highByte (encode i), lowByte (encode i)]

/-- The row of R99 an instruction belongs to: its mask and its match. -/
def rowOf : Instr → Word × Word
  | .cls => (0xFFFF, 0x00E0)
  | .ret => (0xFFFF, 0x00EE)
  | .jp _ => (0xF000, 0x1000)
  | .call _ => (0xF000, 0x2000)
  | .seImm _ _ => (0xF000, 0x3000)
  | .sneImm _ _ => (0xF000, 0x4000)
  | .seReg _ _ => (0xF00F, 0x5000)
  | .ldImm _ _ => (0xF000, 0x6000)
  | .addImm _ _ => (0xF000, 0x7000)
  | .ldReg _ _ => (0xF00F, 0x8000)
  | .orReg _ _ => (0xF00F, 0x8001)
  | .andReg _ _ => (0xF00F, 0x8002)
  | .xorReg _ _ => (0xF00F, 0x8003)
  | .addReg _ _ => (0xF00F, 0x8004)
  | .subReg _ _ => (0xF00F, 0x8005)
  | .shr _ => (0xF00F, 0x8006)
  | .subn _ _ => (0xF00F, 0x8007)
  | .shl _ => (0xF00F, 0x800E)
  | .sneReg _ _ => (0xF00F, 0x9000)
  | .ldI _ => (0xF000, 0xA000)
  | .jpV0 _ => (0xF000, 0xB000)
  | .rnd _ _ => (0xF000, 0xC000)
  | .drw _ _ _ => (0xF000, 0xD000)
  | .skp _ => (0xF0FF, 0xE09E)
  | .sknp _ => (0xF0FF, 0xE0A1)
  | .ldVxDt _ => (0xF0FF, 0xF007)
  | .ldVxK _ => (0xF0FF, 0xF00A)
  | .ldDtVx _ => (0xF0FF, 0xF015)
  | .ldStVx _ => (0xF0FF, 0xF018)
  | .addI _ => (0xF0FF, 0xF01E)
  | .ldF _ => (0xF0FF, 0xF029)
  | .ldB _ => (0xF0FF, 0xF033)
  | .dump _ => (0xF0FF, 0xF055)
  | .load _ => (0xF0FF, 0xF065)

end Sys2Proof
end

