-- ==== Sys2Proof/Machine/State.lean ====
section
/-! DEFINITION. The state of the machine (spec/10_state.md R20 to R38), the host's side of its interface as plain data,
the reasons a step stops, and the state after reset. -/

namespace Sys2Proof.Machine

/-- The bytes that differ from `Config.unlistedByte`, addresses strictly rising (`Memory.wf`); spec/10_state.md R33. -/
abbrev Memory := List Host.Cell

/-- One row of the display: pixel `x` is `row[x]`, true for on. -/
abbrev Row := Vector Bool Config.dispW

/-- The display buffer: `fb[y][x]`, `y` downwards, `x` to the right (spec/10_state.md R34). -/
abbrev Display := Vector Row Config.dispH

/-- The run states of spec/00_scope.md R7. -/
inductive RunState where
  | boot
  | running
  | halted
deriving DecidableEq, Repr

/-- The four fatal faults of spec/60_exceptions.md R220. Each is latched by `State.raise` in the step that raises it, and
the executor's step in the halted state answers it as its outcome. Safe: the machine of the spec stops there too. -/
inductive Fault where
  /-- Raised by the decode stage of the executor for any word of spec/30_encoding.md R100 (R221). Safe. -/
  | unknownInstruction (word : Word)
  /-- Raised by `2NNN` when the stack holds `STACK_DEPTH` addresses (R222). Safe. -/
  | stackOverflow
  /-- Raised by `00EE` when the stack is empty (R223). Safe. -/
  | stackUnderflow
  /-- Raised by the fetch, `DXYN`, `FX33`, `FX55`, `FX65` with the lowest address above 4095 (R224). Safe. -/
  | memoryOutOfBounds (addr : Nat)
deriving DecidableEq, Repr

/-- Why the model gives a step no meaning. -/
inductive Refusal where
  /-- The arm of an instruction that has no meaning yet in `exec`; no arm is left. Safe. -/
  | notModelled (mnemonic : String)
deriving DecidableEq, Repr

/-- What the block sends the host as an event (spec/60_exceptions.md R240). -/
inductive Output where
  /-- The display was cleared or drawn on (spec/43_display.md R177). -/
  | fbUpdated
  /-- A tick found the sound timer nonzero (spec/60_exceptions.md R237). -/
  | audioTick
  /-- The loader's report that a program is too large (spec/70_reset_and_hazards.md R265, R266). -/
  | capacityError
deriving DecidableEq, Repr

/-- One atomic step of one agent (spec/00_scope.md R5, R6), or one host action (spec/92_eei_decisions.md, the host's moves). -/
inductive Move where
  /-- The executor's turn: one instruction step (spec/10_state.md R27). -/
  | execute
  /-- The ticker's turn: one tick (spec/60_exceptions.md R236). -/
  | tick
  /-- The host resets the machine (spec/70_reset_and_hazards.md R260). -/
  | reset
  /-- The host writes the 80 font bytes (spec/70_reset_and_hazards.md R264). -/
  | installFont (font : Vector Byte Config.fontBytes)
  /-- The host loads a program (spec/70_reset_and_hazards.md R265). -/
  | load (bytes : List Byte)
  /-- The host starts the run (spec/70_reset_and_hazards.md R268). -/
  | start
  /-- The host changes whether a key is held (spec/60_exceptions.md R241). -/
  | setKey (k : Key) (held : Bool)
  /-- The host delivers a key-press event (spec/60_exceptions.md R242). -/
  | keyPress (k : Key)
  /-- The host supplies a byte for a coming draw (spec/60_exceptions.md R245). -/
  | supplyRandom (r : Byte)
deriving DecidableEq, Repr

/-- The state. The fields down to `fault` are the machine's, the complete list of spec/10_state.md R37. The others are
the model's own: the host's side of the interface and the order of the agents' steps (notes/assumptions/1.md, 4.md to 7.md). -/
structure State where
  /-- Memory, 4096 bytes (R33). -/
  mem : Memory
  /-- General registers `V[0]` to `V[15]` (R20, R21). -/
  v : Vector Byte Config.nRegs
  /-- Index register `I` (R24). -/
  i : BitVec Config.iWidth
  /-- Program counter (R25). -/
  pc : BitVec Config.pcWidth
  /-- Stack entries `stack[0]` to `stack[1023]` (R29). -/
  stack : Vector (BitVec Config.stackWidth) Config.stackDepth
  /-- Stack pointer: how many return addresses are on the stack, 0 to `STACK_DEPTH` (R30). -/
  sp : Fin (Config.stackDepth + 1)
  /-- Delay timer `DT` (R31). -/
  dt : Byte
  /-- Sound timer `ST` (R32). -/
  st : Byte
  /-- Display buffer (R34). -/
  fb : Display
  /-- Run state (R35). -/
  run : RunState
  /-- Fault latch (R35). -/
  fault : Option Fault
  /-- The levels `key_held[0..15]`, which the host owns (spec/60_exceptions.md R241). -/
  keyHeld : Vector Bool Config.nKeys
  /-- The key-press event delivered at this step; none between steps (spec/60_exceptions.md R242). -/
  keyEvent : Option Key
  /-- Random bytes the host has supplied and no draw has taken, oldest first (spec/60_exceptions.md R245). -/
  rndQueue : List Byte
  /-- How many draws were made: the argument of `Config.freeRandom`. -/
  rndCount : Nat
  /-- The events emitted so far, newest first (spec/60_exceptions.md R240). -/
  emitted : List Output
  /-- The moves to come, next one first; when it is empty the executor moves (spec/00_scope.md R6). -/
  schedule : List Move
deriving DecidableEq, Repr

/-- The state after reset: spec/10_state.md R38 for the machine, nothing pending on the host's side. -/
def State.reset : State where
  mem := []
  v := Vector.replicate Config.nRegs 0
  i := 0x0000
  pc := BitVec.ofNat Config.pcWidth Config.progBase
  stack := Vector.replicate Config.stackDepth 0
  sp := 0
  dt := 0
  st := 0
  fb := Vector.replicate Config.dispH (Vector.replicate Config.dispW false)
  run := .boot
  fault := none
  keyHeld := Vector.replicate Config.nKeys false
  keyEvent := none
  rndQueue := []
  rndCount := 0
  emitted := []
  schedule := []

end Sys2Proof.Machine
end

