-- ==== Sys2Proof/Machine/Ops.lean ====
section
/-! DEFINITION. The named operations over memory, registers, stack, timers and events; raising a fault, and the reset
that alone leaves the halted state. -/

namespace Sys2Proof.Machine

/-- What one step or one meaning answers. -/
abbrev Result := Host.Outcome State Fault Refusal

/-- The canonical form of memory: addresses strictly rising, inside the 4096 bytes, no entry an unlisted byte. -/
abbrev Memory.wf (m : Memory) : Prop :=
  m.Pairwise (fun c d => c.1 < d.1) ∧ ∀ c ∈ m, c.1 < Config.memSize ∧ c.2 ≠ Config.unlistedByte

/-- `MemRead(a, 1)` for an address that was checked (spec/20_memory.md R60). -/
def Memory.read : Memory → Nat → Byte
  | [], _ => Config.unlistedByte
  | (b, w) :: rest, a => if a = b then w else Memory.read rest a

/-- `MemWrite(a, 1, v)` for an address that was checked (spec/20_memory.md R62), keeping the canonical form. -/
def Memory.write : Memory → Nat → Byte → Memory
  | [], a, v => if v = Config.unlistedByte then [] else [(a, v)]
  | (b, w) :: rest, a, v =>
    if a < b then (if v = Config.unlistedByte then (b, w) :: rest else (a, v) :: (b, w) :: rest)
    else if a = b then (if v = Config.unlistedByte then rest else (a, v) :: rest)
    else (b, w) :: Memory.write rest a v

/-- Consecutive byte writes from an address upwards (spec/20_memory.md R62). -/
def Memory.writeBytes (m : Memory) (a : Nat) : List Byte → Memory
  | [] => m
  | b :: bs => Memory.writeBytes (m.write a b) (a + 1) bs

/-- The bounds check of a run of `len` bytes from `base`, made before any of its accesses: the fault with the lowest
address above 4095, if there is one (spec/20_memory.md R63, spec/60_exceptions.md R224). Addresses are integers. -/
def checkRun (base len : Nat) : Option Fault :=
  if len ≠ 0 ∧ Config.memSize < base + len then some (.memoryOutOfBounds (max base Config.memSize)) else none

/-- `V[x]` (spec/10_state.md R20). -/
def State.reg (s : State) (x : Reg) : Byte := s.v[x.val]

/-- `V[x] <- b`. -/
def State.setReg (s : State) (x : Reg) (b : Byte) : State := { s with v := s.v.set x.val b }

/-- `VF <- 0` or `VF <- 1` (spec/10_state.md R21). -/
def State.setFlag (s : State) (f : Bool) : State := s.setReg Config.flagReg (if f then 1 else 0)

/-- `I <- w`. -/
def State.setI (s : State) (w : Word) : State := { s with i := w }

/-- `pc <- w`. -/
def State.setPc (s : State) (w : Word) : State := { s with pc := w }

/-- `DT <- b`. -/
def State.setDt (s : State) (b : Byte) : State := { s with dt := b }

/-- `ST <- b`. -/
def State.setSt (s : State) (b : Byte) : State := { s with st := b }

/-- Another memory. -/
def State.setMem (s : State) (m : Memory) : State := { s with mem := m }

/-- Another display. -/
def State.setFb (s : State) (d : Display) : State := { s with fb := d }

/-- The key-press event being delivered, or none (spec/60_exceptions.md R242). -/
def State.setKeyEvent (s : State) (e : Option Key) : State := { s with keyEvent := e }

/-- An event for the host (spec/60_exceptions.md R240). -/
def State.emit (s : State) (o : Output) : State := { s with emitted := o :: s.emitted }

/-- The advance of `pc` by one instruction, modulo 65536: after the fetch, and once more by a taken skip
(spec/10_state.md R27, R28; spec/41_control_flow.md R148). -/
def State.advance (s : State) : State := s.setPc (s.pc + BitVec.ofNat Config.pcWidth Config.instrBytes)

/-- A skip: one more advance when the condition holds (spec/41_control_flow.md R148). -/
def State.skipIf (s : State) (c : Bool) : State := if c then s.advance else s

/-- Push (spec/10_state.md R30); none when the stack is full. -/
def State.push? (s : State) (w : Word) : Option State :=
  if h : s.sp.val < Config.stackDepth then
    some { s with stack := s.stack.set s.sp.val w h, sp := ⟨s.sp.val + 1, Nat.succ_lt_succ h⟩ }
  else none

/-- Pop (spec/10_state.md R30); none when the stack is empty. The entry keeps its value (notes/assumptions/13.md). -/
def State.pop? (s : State) : Option (Word × State) :=
  if h : 0 < s.sp.val then
    have hk : s.sp.val - 1 < Config.stackDepth := Nat.lt_of_lt_of_le (Nat.sub_lt h Nat.one_pos) (Nat.le_of_lt_succ s.sp.isLt)
    some (s.stack[s.sp.val - 1], { s with sp := ⟨s.sp.val - 1, Nat.lt_succ_of_lt hk⟩ })
  else none

/-- One draw from the random source (spec/60_exceptions.md R245): what the host supplied, else the free value. -/
def State.drawRandom (s : State) : Byte × State :=
  match s.rndQueue with
  | r :: rest => (r, { s with rndQueue := rest, rndCount := s.rndCount + 1 })
  | [] => (Config.freeRandom s.rndCount, { s with rndCount := s.rndCount + 1 })

/-- FAULT ENTRY (spec/60_exceptions.md R226 to R228): the cause is latched, the machine is halted, nothing else changes;
`pc` stays where the step has it, `cur` in a fetch and `cur + 2` later (notes/assumptions/2.md, 12.md). -/
def State.raise (s : State) (f : Fault) : Result := .next { s with run := .halted, fault := some f }

/-- THE ONE EXIT from the halted state, a host action available in every run state (spec/60_exceptions.md R230,
spec/70_reset_and_hazards.md R260, R262): the reset values for the machine; the host's levels,
queued bytes, received events and further moves stay, and no key press is being delivered. -/
def State.hostReset (s : State) : State :=
  { State.reset with
    keyHeld := s.keyHeld, rndQueue := s.rndQueue, rndCount := s.rndCount, emitted := s.emitted,
    schedule := s.schedule }

/-- The numeric code of a fault (spec/60_exceptions.md R220). -/
def Fault.code : Fault → Nat
  | .unknownInstruction _ => 1
  | .stackOverflow => 2
  | .stackUnderflow => 3
  | .memoryOutOfBounds _ => 4

end Sys2Proof.Machine
end

