-- ==== Sys2Proof/Machine/Flags.lean ====
section
/-! DEFINITION. Results and flags of the arithmetic and shift operations, computed over the integers and narrowed at the
end (spec/40_alu.md R131). -/

namespace Sys2Proof.Machine

/-- A result and the flag that goes with it. -/
structure Flagged where
  result : Byte
  flag : Bool
deriving DecidableEq, Repr

/-- Add: the flag is the carry out of 8 bits (spec/40_alu.md R121, R126). -/
def addCarry (a b : Byte) : Flagged :=
  let sum := a.toNat + b.toNat
  { result := BitVec.ofNat Config.regWidth sum, flag := decide (256 ≤ sum) }

/-- Subtract `a - b`: the flag is set when there is no borrow (spec/40_alu.md R127, R129). -/
def subNoBorrow (a b : Byte) : Flagged :=
  { result := BitVec.ofInt Config.regWidth ((a.toNat : Int) - (b.toNat : Int)), flag := decide (b.toNat ≤ a.toNat) }

/-- Shift right by one: the flag is the old bit 0 (spec/40_alu.md R128). -/
def shiftRightOne (a : Byte) : Flagged :=
  { result := BitVec.ofNat Config.regWidth (a.toNat / 2), flag := decide (a.toNat % 2 = 1) }

/-- Shift left by one: the flag is the old bit 7 (spec/40_alu.md R130). -/
def shiftLeftOne (a : Byte) : Flagged :=
  { result := BitVec.ofNat Config.regWidth (2 * a.toNat), flag := decide (a.toNat / 128 % 2 = 1) }

/-- The result goes to `V[x]` and then the flag to `VF`, so that with `x = 0xF` the flag stays (spec/10_state.md R23;
notes/assumptions/9.md). The operands were read before. -/
def State.writeFlagged (s : State) (x : Reg) (r : Flagged) : State := (s.setReg x r.result).setFlag r.flag

end Sys2Proof.Machine
end

