-- ==== Sys2Proof/Machine/Alu.lean ====
section
/-! DEFINITION. Register load, arithmetic, logic and shift (spec/40_alu.md). On entry `pc` is the next instruction's
address, and none of these writes it. -/

namespace Sys2Proof.Machine

/-- `6XNN` (R120). -/
def execLdImm (x : Reg) (nn : Byte) (s : State) : Result := .next (s.setReg x nn)

/-- `7XNN` (R121). -/
def execAddImm (x : Reg) (nn : Byte) (s : State) : Result := .next (s.writeFlagged x (addCarry (s.reg x) nn))

/-- `8XY0` (R122). -/
def execLdReg (x y : Reg) (s : State) : Result := .next (s.setReg x (s.reg y))

/-- `8XY1` (R123). -/
def execOrReg (x y : Reg) (s : State) : Result := .next (s.setReg x (s.reg x ||| s.reg y))

/-- `8XY2` (R124). -/
def execAndReg (x y : Reg) (s : State) : Result := .next (s.setReg x (s.reg x &&& s.reg y))

/-- `8XY3` (R125). -/
def execXorReg (x y : Reg) (s : State) : Result := .next (s.setReg x (s.reg x ^^^ s.reg y))

/-- `8XY4` (R126). -/
def execAddReg (x y : Reg) (s : State) : Result := .next (s.writeFlagged x (addCarry (s.reg x) (s.reg y)))

/-- `8XY5` (R127). -/
def execSubReg (x y : Reg) (s : State) : Result := .next (s.writeFlagged x (subNoBorrow (s.reg x) (s.reg y)))

/-- `8XY6` (R128). -/
def execShr (x : Reg) (s : State) : Result := .next (s.writeFlagged x (shiftRightOne (s.reg x)))

/-- `8XY7` (R129, the consistent form of spec/90_conflicts.md C4; notes/assumptions/11.md). -/
def execSubn (x y : Reg) (s : State) : Result := .next (s.writeFlagged x (subNoBorrow (s.reg y) (s.reg x)))

/-- `8XYE` (R130). -/
def execShl (x : Reg) (s : State) : Result := .next (s.writeFlagged x (shiftLeftOne (s.reg x)))

end Sys2Proof.Machine
end

