-- ==== Sys2Proof/Machine/Operands.lean ====
section
/-! DEFINITION. How each operand form of the instructions is evaluated (spec/00_scope.md section 5, spec/30_encoding.md
R92 to R96). Register and immediate-byte operands are used as they are (`State.reg`; R93, R95). -/

namespace Sys2Proof.Machine

/-- `zext_16(NNN)`: a 12-bit address as a 16-bit value (spec/30_encoding.md R96). -/
def zextAddr (nnn : Addr12) : Word := nnn.setWidth 16

/-- `zext_16(V[x])`: a register as a 16-bit value. -/
def State.regWord (s : State) (x : Reg) : Word := (s.reg x).setWidth 16

/-- The base address of a memory access: `I` as an integer (spec/20_memory.md R63). -/
def State.base (s : State) : Nat := s.i.toNat

/-- `V[x][3:0]`: the low nibble, which names a key or a hexadecimal digit (spec/45_keypad_and_timers.md R206,
spec/42_random_and_index.md R163; notes/assumptions/10.md). -/
def State.lowNibble (s : State) (x : Reg) : Fin 16 := Fin.ofNat 16 ((s.reg x).toNat % 16)

/-- The address of the font glyph of a digit (spec/42_random_and_index.md R163). -/
def glyphAddr (d : Fin 16) : Word := BitVec.ofNat Config.iWidth (Config.fontBase + Config.glyphBytes * d.val)

/-- The column of a sprite's origin, `V[x] mod 64` (spec/43_display.md R172). -/
def State.originX (s : State) (x : Reg) : Fin Config.dispW := Fin.ofNat Config.dispW (s.reg x).toNat

/-- The row of a sprite's origin, `V[y] mod 32` (spec/43_display.md R172). -/
def State.originY (s : State) (y : Reg) : Fin Config.dispH := Fin.ofNat Config.dispH (s.reg y).toNat

/-- The three decimal digits of a byte: hundreds, tens, units (spec/44_memory_transfer.md R190). -/
def bcdDigits (b : Byte) : List Byte :=
  [BitVec.ofNat Config.regWidth (b.toNat / 100), BitVec.ofNat Config.regWidth (b.toNat / 10 % 10), BitVec.ofNat Config.regWidth (b.toNat % 10)]

/-- The registers `V[0]` to `V[x]`, in order (spec/44_memory_transfer.md R191). -/
def State.regsUpTo (s : State) (x : Reg) : List Byte := s.v.toList.take (x.val + 1)

/-- Registers 0 to `x` taken from memory at `a` upwards, the others as they are (spec/44_memory_transfer.md R192). -/
def State.loadRegs (s : State) (x : Reg) (a : Nat) : State :=
  { s with v := Vector.ofFn fun k : Reg => if k.val ≤ x.val then s.mem.read (a + k.val) else s.reg k }

end Sys2Proof.Machine
end

