-- ==== Sys2Proof/Machine/ControlFlow.lean ====
section
/-! DEFINITION. Skip, call, return and jump (spec/41_control_flow.md). On entry `pc` is the address after the
instruction. -/

namespace Sys2Proof.Machine

/-- `3XNN` (R140). -/
def execSeImm (x : Reg) (nn : Byte) (s : State) : Result := .next (s.skipIf (decide (s.reg x = nn)))

/-- `4XNN` (R141). -/
def execSneImm (x : Reg) (nn : Byte) (s : State) : Result := .next (s.skipIf (decide (s.reg x ≠ nn)))

/-- `5XY0` (R142). -/
def execSeReg (x y : Reg) (s : State) : Result := .next (s.skipIf (decide (s.reg x = s.reg y)))

/-- `9XY0` (R143). -/
def execSneReg (x y : Reg) (s : State) : Result := .next (s.skipIf (decide (s.reg x ≠ s.reg y)))

/-- `2NNN` (R144): the check comes before the push. -/
def execCall (nnn : Addr12) (s : State) : Result :=
  match s.push? s.pc with
  | some s' => .next (s'.setPc (zextAddr nnn))
  | none => s.raise .stackOverflow

/-- `00EE` (R145). -/
def execRet (s : State) : Result :=
  match s.pop? with
  | some (w, s') => .next (s'.setPc w)
  | none => s.raise .stackUnderflow

/-- `1NNN` (R146). -/
def execJp (nnn : Addr12) (s : State) : Result := .next (s.setPc (zextAddr nnn))

/-- `BNNN` (R147): the sum is not masked to 12 bits. -/
def execJpV0 (nnn : Addr12) (s : State) : Result := .next (s.setPc (zextAddr nnn + s.regWord 0))

end Sys2Proof.Machine
end

