-- ==== Sys2Proof/Machine/Graphics.lean ====
section
/-! DEFINITION. The display instructions and the sprite blit (spec/43_display.md). -/

namespace Sys2Proof.Machine

/-- A place on the display: column, row. -/
abbrev Point := Fin Config.dispW × Fin Config.dispH

/-- The display with every pixel off (R170). -/
def Display.clear : Display := Vector.replicate Config.dispH (Vector.replicate Config.dispW false)

/-- `fb[y][x]` (spec/10_state.md R34). -/
def Display.pixel (d : Display) (p : Point) : Bool := d[p.2.val][p.1.val]

/-- `fb[y][x] <- fb[y][x] ^ 1` (R175). -/
def Display.toggle (d : Display) (p : Point) : Display := d.set p.2.val (d[p.2.val].set p.1.val (!d.pixel p))

/-- Where column `c` of row `r` of a sprite at `(x0, y0)` toggles a pixel: nowhere when it is clipped (R173) or its
bit, `7 - c` of the row's byte (R174), is 0. -/
def spritePoint (x0 : Fin Config.dispW) (y0 : Fin Config.dispH) (r c : Nat) (b : Byte) : Option Point :=
  if h : x0.val + c < Config.dispW ∧ y0.val + r < Config.dispH then
    if b.getLsbD (7 - c) then some (⟨x0.val + c, h.1⟩, ⟨y0.val + r, h.2⟩) else none
  else none

/-- The pixels a sprite toggles, in the order of R171's loops; `row r` is the byte of row `r`. -/
def spritePoints (x0 : Fin Config.dispW) (y0 : Fin Config.dispH) (n : Nat) (row : Nat → Byte) : List Point :=
  (List.range n).flatMap fun r => (List.range Config.spriteW).filterMap fun c => spritePoint x0 y0 r c (row r)

/-- One drawn pixel: a collision when it was on (R175). -/
def plot (d : Display × Bool) (p : Point) : Display × Bool := (d.1.toggle p, d.2 || d.1.pixel p)

/-- The blit: the display after it and whether any pixel collided (R171, R175). -/
def blit (d : Display) (ps : List Point) : Display × Bool := ps.foldl plot (d, false)

/-- The pixels that `DXYN` toggles in a state (R171): origin from `V[x]`, `V[y]`, bytes from `I` upwards. -/
def State.sprite (s : State) (x y : Reg) (n : Nat) : List Point :=
  spritePoints (s.originX x) (s.originY y) n fun r => s.mem.read (s.base + r)

/-- `00E0` (R170). -/
def execCls (s : State) : Result := .next ((s.setFb Display.clear).emit .fbUpdated)

/-- `DXYN` (R171): all addresses checked first (R176), the flag written last and always (R175, R180), the presenter
told (R177). -/
def execDrw (x y : Reg) (n : Nat) (s : State) : Result :=
  match checkRun s.base n with
  | some f => s.raise f
  | none =>
    let after := blit s.fb (s.sprite x y n)
    .next (((s.setFb after.1).setFlag after.2).emit .fbUpdated)

end Sys2Proof.Machine
end

