-- ==== Sys2Proof/Machine/KeypadTimers.lean ====
section
/-! DEFINITION. Keypad and timer instructions (spec/45_keypad_and_timers.md). -/

namespace Sys2Proof.Machine

/-- `key_held[k]`, sampled in this step (R206). -/
def State.held (s : State) (k : Key) : Bool := s.keyHeld[k.val]

/-- `EX9E` (R200). -/
def execSkp (x : Reg) (s : State) : Result := .next (s.skipIf (s.held (s.lowNibble x)))

/-- `EXA1` (R201). -/
def execSknp (x : Reg) (s : State) : Result := .next (s.skipIf (!s.held (s.lowNibble x)))

/-- `FX0A` (R202): with a key-press event delivered at this step the key's number is written and the event is used up;
without one the executor is held, `pc` at this instruction again and nothing else changed (spec/10_state.md R36;
notes/assumptions/6.md). -/
def execLdVxK (x : Reg) (s : State) : Result :=
  match s.keyEvent with
  | some k => .next ((s.setReg x (BitVec.ofNat Config.regWidth k.val)).setKeyEvent none)
  | none => .next (s.setPc (s.pc - BitVec.ofNat Config.pcWidth Config.instrBytes))

/-- `FX07` (R203). -/
def execLdVxDt (x : Reg) (s : State) : Result := .next (s.setReg x s.dt)

/-- `FX15` (R204). -/
def execLdDtVx (x : Reg) (s : State) : Result := .next (s.setDt (s.reg x))

/-- `FX18` (R205). -/
def execLdStVx (x : Reg) (s : State) : Result := .next (s.setSt (s.reg x))

end Sys2Proof.Machine
end

