-- ==== Sys2Proof/Machine/RandomIndex.lean ====
section
/-! DEFINITION. Random number and index register (spec/42_random_and_index.md). -/

namespace Sys2Proof.Machine

/-- `CXNN` (R160): a fresh draw, masked. -/
def execRnd (x : Reg) (nn : Byte) (s : State) : Result := .next (s.drawRandom.2.setReg x (s.drawRandom.1 &&& nn))

/-- `ANNN` (R161). -/
def execLdI (nnn : Addr12) (s : State) : Result := .next (s.setI (zextAddr nnn))

/-- `FX1E` (R162): modulo 65536, no flag. -/
def execAddI (x : Reg) (s : State) : Result := .next (s.setI (s.i + s.regWord x))

/-- `FX29` (R163). -/
def execLdF (x : Reg) (s : State) : Result := .next (s.setI (glyphAddr (s.lowNibble x)))

end Sys2Proof.Machine
end

