-- ==== Sys2Proof/Machine/Transfer.lean ====
section
/-! DEFINITION. BCD store, register dump and register load (spec/44_memory_transfer.md): every address is checked before
anything is written (R194), and `I` is not changed (R193). -/

namespace Sys2Proof.Machine

/-- A run of bytes stored at `I` upwards, checked whole before any of it is written (R194). -/
def State.storeRun (s : State) (bs : List Byte) : Result :=
  match checkRun s.base bs.length with
  | some f => s.raise f
  | none => .next (s.setMem (s.mem.writeBytes s.base bs))

/-- `FX33` (R190). -/
def execLdB (x : Reg) (s : State) : Result := s.storeRun (bcdDigits (s.reg x))

/-- `FX55` (R191). -/
def execDump (x : Reg) (s : State) : Result := s.storeRun (s.regsUpTo x)

/-- `FX65` (R192). -/
def execLoad (x : Reg) (s : State) : Result :=
  match checkRun s.base (x.val + 1) with
  | some f => s.raise f
  | none => .next (s.loadRegs x s.base)

end Sys2Proof.Machine
end

