-- ==== Sys2Proof/Machine/HostActions.lean ====
section
/-! DEFINITION. What the host does to the machine between steps, beside reset (`State.hostReset`), and what it reads
(spec/70_reset_and_hazards.md R263 to R268, spec/60_exceptions.md R240 to R248). A boot action outside `BOOT` is not
available: it leaves the state as it is (notes/assumptions/3.md). -/

namespace Sys2Proof.Machine

/-- The font bytes to 0x000 upwards, in `BOOT` (spec/70_reset_and_hazards.md R264). -/
def State.installFont (s : State) (font : Vector Byte Config.fontBytes) : State :=
  if s.run = .boot then s.setMem (s.mem.writeBytes Config.fontBase font.toList) else s

/-- The program to 0x200 upwards, in `BOOT`; all or nothing, with a report to the host when it is too large
(spec/70_reset_and_hazards.md R265, R266). -/
def State.loadProgram (s : State) (bytes : List Byte) : State :=
  if s.run = .boot then
    if Config.progMax < bytes.length then s.emit .capacityError
    else s.setMem (s.mem.writeBytes Config.progBase bytes)
  else s

/-- Start of the run, in `BOOT` (spec/70_reset_and_hazards.md R268). -/
def State.startRun (s : State) : State := if s.run = .boot then { s with run := .running } else s

/-- A key goes down or up (spec/60_exceptions.md R241). -/
def State.setKey (s : State) (k : Key) (held : Bool) : State := { s with keyHeld := s.keyHeld.set k.val held }

/-- A byte for a coming draw (spec/60_exceptions.md R245). -/
def State.supplyRandom (s : State) (r : Byte) : State := { s with rndQueue := s.rndQueue ++ [r] }

/-- The two bytes of a word at an address, high byte first, where both exist. -/
def Memory.placeWord (m : Memory) (a : Nat) (hi lo : Byte) : Memory :=
  if a + 1 < Config.memSize then m.writeBytes a [hi, lo] else m

/-- The grid the presenter reads, pixel `(x, y)` at index `y * 64 + x` (spec/60_exceptions.md R243). -/
def State.flatGrid (s : State) : List Bool := (s.fb.toList.map Vector.toList).flatten

/-- The code of the latched fault, 0 for none (spec/60_exceptions.md R220). -/
def State.faultCode (s : State) : Nat :=
  match s.fault with
  | some f => f.code
  | none => 0

/-- The completion status is zero (spec/60_exceptions.md R231). -/
def State.cleanStatus (s : State) : Bool := s.fault.isNone

/-- The values of the diagnostics dump; its text is out of scope (spec/60_exceptions.md R248, spec/00_scope.md R3). -/
structure Diagnostics where
  pc : Word
  index : Word
  rawStackPointer : Nat
  topOfStack : Option Word
  registers : Vector Byte Config.nRegs
deriving DecidableEq, Repr

/-- The dump reads the state; the stack pointer shown is the raw `2 * sp` (spec/60_exceptions.md R248,
spec/10_state.md R30). With an empty stack there is no top-of-stack value. -/
def State.diagnostics (s : State) : Diagnostics where
  pc := s.pc
  index := s.i
  rawStackPointer := 2 * s.sp.val
  topOfStack := s.pop?.map Prod.fst
  registers := s.v

end Sys2Proof.Machine
end

