-- ==== Sys2Proof/Machine/Ticker.lean ====
section
/-! DEFINITION. The ticker's step (spec/60_exceptions.md R236, R237). -/

namespace Sys2Proof.Machine

/-- The indivisible decrement-if-positive of a timer (spec/20_memory.md R73). -/
def decrementIfPositive (b : Byte) : Byte := if b = 0 then 0 else b - 1

/-- One tick: both timers count down, and a sound timer found nonzero emits one audible tick (R236, R237). -/
def State.tick (s : State) : State :=
  { s with
    st := decrementIfPositive s.st, dt := decrementIfPositive s.dt,
    emitted := if s.st = 0 then s.emitted else .audioTick :: s.emitted }

/-- The ticker's turn: a tick in `RUNNING`, no step in `BOOT` or `HALTED` (R238; notes/assumptions/3.md). -/
def State.tickerStep (s : State) : State := if s.run = .running then s.tick else s

end Sys2Proof.Machine
end

