-- ==== Sys2Proof/Machine/Executor.lean ====
section
/-! DEFINITION. Instruction fetch, the executor's step (spec/10_state.md R27), and what each move of the schedule does. -/

namespace Sys2Proof.Machine

/-- `MemRead(pc, 2)`: two bytes at any parity, big-endian, or the fault of the fetch (spec/20_memory.md R61, R65). -/
def State.fetch (s : State) : Except Fault Word :=
  match checkRun s.pc.toNat Config.instrBytes with
  | some f => .error f
  | none => .ok (wordOfBytes (s.mem.read s.pc.toNat) (s.mem.read (s.pc.toNat + 1)))

/-- Fetch, advance of `pc`, decode, execute (R27); the first check that fails is the fault (spec/60_exceptions.md R229). -/
def State.instructionStep (s : State) : Result :=
  match s.fetch with
  | .error f => s.raise f
  | .ok w =>
    match decode w with
    | none => s.advance.raise (.unknownInstruction w)
    | some i => exec i s.advance

/-- The executor's turn. In `BOOT` no step is enabled and nothing happens. In `HALTED` none is enabled either, and the
outcome is the latched fault, so that no run goes on from it (spec/00_scope.md R7, spec/60_exceptions.md R226;
notes/assumptions/2.md, 3.md). -/
def State.executorStep (s : State) : Result :=
  match s.run with
  | .running => s.instructionStep
  | .boot => .next s
  | .halted =>
    match s.fault with
    | some f => .fault f
    | none => .next s

/-- The executor is held: the next instruction is `FX0A` (spec/10_state.md R36, spec/45_keypad_and_timers.md R202). -/
def State.waitsForKey (s : State) : Bool :=
  match s.run, s.fetch with
  | .running, .ok w =>
    match decode w with
    | some (.ldVxK _) => true
    | _ => false
  | _, _ => false

/-- A key press completes the instruction the executor is held in, and is dropped at any other time
(spec/60_exceptions.md R242). -/
def State.pressKey (s : State) (k : Key) : Result :=
  if s.waitsForKey then (s.setKeyEvent (some k)).executorStep else .next s

/-- What a move does (spec/00_scope.md R5, spec/92_eei_decisions.md the host's moves). -/
def State.perform (s : State) : Move → Result
  | .execute => s.executorStep
  | .tick => .next s.tickerStep
  | .reset => .next s.hostReset
  | .installFont font => .next (s.installFont font)
  | .load bytes => .next (s.loadProgram bytes)
  | .start => .next s.startRun
  | .setKey k held => .next (s.setKey k held)
  | .keyPress k => s.pressKey k
  | .supplyRandom r => .next (s.supplyRandom r)

/-- Whose turn it is: the schedule's first move, the executor when it is empty (spec/00_scope.md R6;
notes/assumptions/1.md). Infinite runs with other moves, and fair ones: Sys2Proof/Machine/Runs.lean. -/
def State.nextMove (s : State) : Move := s.schedule.head?.getD .execute

/-- The schedule without that move. -/
def State.dropMove (s : State) : State := { s with schedule := s.schedule.tail }

/-- Memory with a table word where the next fetch reads, the run started and the executor's turn next
(notes/assumptions/8.md). -/
def State.placeInstruction (s : State) (w : Word) : State :=
  { s with
    mem := s.mem.placeWord s.pc.toNat (highByte w) (lowByte w), run := .running, fault := none,
    schedule := .execute :: s.schedule }

end Sys2Proof.Machine
end

