-- ==== Sys2Proof/Machine/Step.lean ====
section
/-! DEFINITION. One step of the machine: one whole move of one agent (spec/00_scope.md R6). -/

namespace Sys2Proof.Machine

/-- The next move of the schedule, performed. -/
def step (s : State) : Host.Outcome State Fault Refusal := s.dropMove.perform s.nextMove

/-- The state with a table word (bits above 16 none) placed as the instruction that the very next step runs. -/
def State.withFetchWord (s : State) (_nbits w : Nat) : State := s.placeInstruction (BitVec.ofNat 16 w)

end Sys2Proof.Machine
end

