-- ==== Sys2Proof/Machine/Runs.lean ====
section
/-! DEFINITION. Infinite runs under any order of moves, and the weak fairness of the executor and the ticker, the one
liveness assumption of the spec (spec/60_exceptions.md R238, spec/70_reset_and_hazards.md R275). None of this is state: a
run's moves are a sequence beside the states, of which the list `schedule` is a finite beginning (notes/assumptions/1.md). -/

namespace Sys2Proof.Machine

/-- One step in which the move is `m`: the step of the machine with `m` put before its schedule. -/
def State.turn (s : State) (m : Move) : Result := step { s with schedule := m :: s.schedule }

/-- An infinite run: state by state the step of the machine, under any sequence of moves (spec/00_scope.md R6). -/
def IsRun (states : Nat → State) (moves : Nat → Move) : Prop :=
  ∀ n, (states n).turn (moves n) = .next (states (n + 1))

/-- A tick step is enabled: in `RUNNING`, held or not (spec/60_exceptions.md R236, R238). -/
def State.tickEnabled (s : State) : Prop := s.run = .running

/-- An instruction step is enabled: in `RUNNING`, unless the executor is held in `FX0A` (spec/10_state.md R27, R36). -/
def State.executeEnabled (s : State) : Prop := s.run = .running ∧ s.waitsForKey = false

/-- Weak fairness of the two agents, and of nobody else: from every point on, each of them at some time makes its move or
is not enabled (R238, R275). A key press that a held `FX0A` waits for is never promised. -/
def WeaklyFair (states : Nat → State) (moves : Nat → Move) : Prop :=
  ∀ n, (∃ k ≥ n, (states k).tickEnabled → moves k = .tick) ∧
    ∃ k ≥ n, (states k).executeEnabled → moves k = .execute

/-- A run that claims of termination may take as their premise: infinite and weakly fair. -/
def FairRun (states : Nat → State) (moves : Nat → Move) : Prop := IsRun states moves ∧ WeaklyFair states moves

end Sys2Proof.Machine
end

