-- ==== Sys2Proof/Safety.lean ====
section
/-! DEFINITION. The terms in which claims about the machine are stated: what stays unchanged, the invariant, the launch
state, a safe run, a complete run, and runs that keep the stack above a depth. -/

namespace Sys2Proof.Machine

/-- The pieces of `State`, each under the name by which a frame lists it. -/
inductive Part where
  | mem | regs | index | pc | stack | sp | delay | sound | display | run | fault
  | keyHeld | keyEvent | random | emitted | schedule
deriving DecidableEq, Repr

/-- Two states agree on a piece, seen through its reads: every byte of memory, every register, every pixel. -/
def State.sameOn (s t : State) : Part → Prop
  | .mem => ∀ a, t.mem.read a = s.mem.read a
  | .regs => ∀ r, t.reg r = s.reg r
  | .index => t.i = s.i
  | .pc => t.pc = s.pc
  | .stack => t.stack = s.stack
  | .sp => t.sp = s.sp
  | .delay => t.dt = s.dt
  | .sound => t.st = s.st
  | .display => ∀ p, t.fb.pixel p = s.fb.pixel p
  | .run => t.run = s.run
  | .fault => t.fault = s.fault
  | .keyHeld => t.keyHeld = s.keyHeld
  | .keyEvent => t.keyEvent = s.keyEvent
  | .random => t.rndQueue = s.rndQueue ∧ t.rndCount = s.rndCount
  | .emitted => t.emitted = s.emitted
  | .schedule => t.schedule = s.schedule

/-- The frame: every piece of the state but the listed ones is as it was. -/
def State.UnchangedBut (s t : State) (parts : List Part) : Prop := ∀ p, p ∉ parts → s.sameOn t p

/-- `HALTED` with a cause latched, all else as in `s`: what spec/60_exceptions.md R226 and R227 leave after a fault. -/
def State.halted (s : State) (f : Fault) : State := { s with run := .halted, fault := some f }

/-- The invariant of the machine: memory is in canonical form inside the 4096 bytes (spec/10_state.md R33), the latch
holds a cause exactly in `HALTED` (R35, R39), and no key press is kept between steps (spec/60_exceptions.md R242). The
other bounds of R39 hold by the types of the fields. -/
structure State.Inv (s : State) : Prop where
  mem : s.mem.wf
  latch : s.fault ≠ none ↔ s.run = .halted
  event : s.keyEvent = none

/-- The launch state of a claim: reset, font and program in memory, running (spec/70_reset_and_hazards.md R268). -/
def State.launch (font : Vector Byte Config.fontBytes) (program : List Byte) : State :=
  { State.reset with
    mem := (Memory.writeBytes [] Config.fontBase font.toList).writeBytes Config.progBase program, run := .running }

/-- A run of `n` steps is safe when it ends in a next state and the machine is not halted there: a halted state is
never a successful end (spec/60_exceptions.md R226). -/
def SafeRun (n : Nat) (s : State) : Prop := ∃ t, Sys2Proof.core.run n s = .next t ∧ t.run ≠ .halted

/-- Pixel `q` is one that `DXYN` draws in `s`, in the words of spec/43_display.md R171 to R174: it lies at row `r < n` and
column `c < 8` of a sprite whose origin is `(V[x] mod 64, V[y] mod 32)`, and bit `7 - c` of `mem[I + r]` is 1. -/
def State.drawsOn (s : State) (x y : Reg) (n : Nat) (q : Point) : Prop :=
  ∃ r < n, ∃ c < 8, q.1.val = (s.reg x).toNat % 64 + c ∧ q.2.val = (s.reg y).toNat % 32 + r ∧
    (s.mem.read (s.i.toNat + r)).getLsbD (7 - c) = true

/-- `pc` addresses a jump to itself: the run is complete (spec/70_reset_and_hazards.md R269, a convention of claims). -/
def State.complete (s : State) : Prop := ∃ w nnn, s.fetch = .ok w ∧ decode w = some (.jp nnn) ∧ zextAddr nnn = s.pc

/-- `t` is reached from `s` by steps after each of which at least `k` return addresses are on the stack. -/
inductive StepsAbove (k : Nat) : State → State → Prop where
  | done (s : State) : StepsAbove k s s
  | more {s t u : State} (before : StepsAbove k s t) (one : step t = .next u) (deep : k ≤ u.sp.val) : StepsAbove k s u

end Sys2Proof.Machine
end

