-- ==== Sys2Proof/Certificates/Slice0/Obligations.lean ====
section
/-! DEFINITION. The statements for the provers. Each says of the model what a rule of spec/ says of the machine. In every
statement about `exec`, `s` is the state after the fetch and the advance of `pc` (spec/10_state.md R27): `s.pc` is `npc`. -/

open Sys2Proof Sys2Proof.Machine

/-! ## Encoding -/

/-- Decoding an encoded well-formed instruction gives it back, with every operand, from a word and from bytes followed by
anything. The patterns are the spec's general knowledge (30_encoding.md R99; notes/assumptions/15.md). -/
def Obligations.DecodingAnEncodedInstructionGivesItBack : Prop :=
  ∀ i : Instr, i.wellFormed = true →
    decode (encode i) = some i ∧ ∀ rest, decodeBytes (encodeBytes i ++ rest) = .ok (i, rest)

/-- What the decoder reads is well-formed, and encoding it gives the word back; only the two shifts forget their ignored
nibble `Y` (30_encoding.md R98). -/
def Obligations.EncodingADecodedWordGivesItBackButForTheShiftsY : Prop :=
  ∀ (w : Word) (i : Instr), decode w = some i →
    i.wellFormed = true ∧
      encode i = match i with
        | .shr _ | .shl _ => w &&& 0xFF0F#16
        | _ => w

/-- The words that decode to nothing are those of R100's list, class by class (spec decision D3; notes/assumptions/15.md). -/
def Obligations.TheUnknownWordsAreTheListedOnes : Prop :=
  ∀ w : Word, decode w = none ↔
    (w.toNat < 0x1000 ∧ w.toNat ≠ 0x00E0 ∧ w.toNat ≠ 0x00EE) ∨
    (w.toNat / 0x1000 = 0x5 ∧ w.toNat % 0x10 ≠ 0) ∨
    (w.toNat / 0x1000 = 0x8 ∧ w.toNat % 0x10 ∈ [0x8, 0x9, 0xA, 0xB, 0xC, 0xD, 0xF]) ∨
    (w.toNat / 0x1000 = 0x9 ∧ w.toNat % 0x10 ≠ 0) ∨
    (w.toNat / 0x1000 = 0xE ∧ w.toNat % 0x100 ∉ [0x9E, 0xA1]) ∨
    (w.toNat / 0x1000 = 0xF ∧ w.toNat % 0x100 ∉ [0x07, 0x0A, 0x15, 0x18, 0x1E, 0x29, 0x33, 0x55, 0x65])

/-- The decoder picks an instruction of exactly the row of R99 whose mask and match the word fits, so no word fits two. -/
def Obligations.AWordIsDecodedByItsOnlyOpcodeRow : Prop :=
  ∀ (w : Word) (i : Instr),
    (decode w = some i → w &&& (rowOf i).1 = (rowOf i).2) ∧
    (w &&& (rowOf i).1 = (rowOf i).2 → ∃ j, decode w = some j ∧ rowOf j = rowOf i)

/-- Words written out from the encodings: the document's own example, the field-extraction examples of 95_test_vectors.md
section 9, one word of each format, and the zero word. -/
def Obligations.SampleWordsDecodeAsWritten : Prop :=
  decode 0x6005#16 = some (.ldImm 0 5) ∧ decode 0xD12F#16 = some (.drw 1 2 15) ∧
  decode 0x8AB4#16 = some (.addReg 10 11) ∧ decode 0x00EE#16 = some .ret ∧ decode 0x2ABC#16 = some (.call 0xABC#12) ∧
  decode 0xF365#16 = some (.load 3) ∧ decode 0x0000#16 = none

/-! ## The step -/

/-- R27, the instruction step: a fetch out of bounds halts with `pc` as it was; else `pc` advances by 2, and an unknown word
halts, and a decoded instruction is executed. Outside `RUNNING` there is no such step: nothing that the executor's turn
can lead to differs from before. -/
def Obligations.AStepFetchesAdvancesDecodesAndExecutes : Prop :=
  ∀ s : State, s.nextMove = .execute →
    (s.run = .running →
      (∀ f, s.fetch = .error f → step s = .next (s.dropMove.halted f)) ∧
      (∀ w, s.fetch = .ok w → decode w = none →
        step s = .next ((s.dropMove.setPc (s.pc + 2)).halted (.unknownInstruction w))) ∧
      (∀ w i, s.fetch = .ok w → decode w = some i → step s = exec i (s.dropMove.setPc (s.pc + 2)))) ∧
    (s.run ≠ .running → ∀ t, step s = .next t → t = s.dropMove)

/-- R61: a fetch reads two bytes at any parity, the lower address the more significant, and faults with the lowest
address outside memory when one of the two is. -/
def Obligations.AFetchIsBigEndianAndBounded : Prop :=
  ∀ s : State,
    (s.pc.toNat < 4095 → ∃ w, s.fetch = .ok w ∧
      w.toNat = 256 * (s.mem.read s.pc.toNat).toNat + (s.mem.read (s.pc.toNat + 1)).toNat) ∧
    (s.pc.toNat = 4095 → s.fetch = .error (.memoryOutOfBounds 4096)) ∧
    (4095 < s.pc.toNat → s.fetch = .error (.memoryOutOfBounds s.pc.toNat))

/-- Moves that R7, R226, R238 and R265 do not enable do nothing; the executor's turn in `HALTED` ends the run with the
latched fault (spec decisions D8, D24, D27; notes/assumptions/2.md, 3.md). -/
def Obligations.MovesThatAreNotEnabledChangeNothing : Prop :=
  ∀ s : State,
    (s.run = .boot → s.nextMove = .execute → step s = .next s.dropMove) ∧
    (∀ f, s.run = .halted → s.fault = some f → s.nextMove = .execute → step s = .fault f) ∧
    (s.run ≠ .running → s.nextMove = .tick → step s = .next s.dropMove) ∧
    (∀ k, s.run ≠ .running → s.nextMove = .keyPress k → step s = .next s.dropMove) ∧
    (∀ font, s.run ≠ .boot → s.nextMove = .installFont font → step s = .next s.dropMove) ∧
    (∀ bytes, s.run ≠ .boot → s.nextMove = .load bytes → step s = .next s.dropMove) ∧
    (s.run ≠ .boot → s.nextMove = .start → step s = .next s.dropMove)

/-- Every state that meets the invariant passes it on, whichever agent moves (R39 for the latch; that memory is listed in
canonical form and that no key press is kept are the model's: notes/assumptions/19.md, 6.md). -/
def Obligations.EveryStepKeepsTheInvariant : Prop := ∀ s t : State, s.Inv → step s = .next t → t.Inv

/-- The state after reset meets the invariant. -/
def Obligations.TheResetStateMeetsTheInvariant : Prop := State.reset.Inv

/-- No step is refused, and a step ends the run only as the executor's turn in `HALTED`, with the latched cause
(notes/assumptions/2.md). -/
def Obligations.AStepAnswersNextUnlessTheMachineIsHalted : Prop :=
  ∀ s : State,
    (∃ t, step s = .next t) ∨
      (∃ f, step s = .fault f ∧ s.run = .halted ∧ s.fault = some f ∧ s.nextMove = .execute)

/-- The law of 95_test_vectors.md section 12 (R220, R225): a running machine is running without a fault after a step, or
halted with one of the four causes. -/
def Obligations.ARunningMachineRunsOnOrHaltsWithACause : Prop :=
  ∀ s t : State, s.Inv → s.run = .running → s.nextMove ≠ .reset → step s = .next t →
    (t.run = .running ∧ t.fault = none) ∨ (t.run = .halted ∧ ∃ f, t.fault = some f)

/-- Nothing but a host reset leaves `HALTED`, and until then the machine's own state stands still (R226, R230; spec
decisions D8, D24). What may change is the model's own (notes/assumptions/1.md, 4.md, 5.md). -/
def Obligations.OnlyAResetLeavesTheHaltedState : Prop :=
  ∀ s t : State, s.run = .halted → step s = .next t →
    (s.nextMove ≠ .reset → s.UnchangedBut t [.keyHeld, .random, .schedule]) ∧
    (s.nextMove = .reset → t.run = .boot ∧ t.fault = none)

/-! ## Faults and who writes what -/

/-- When an instruction faults at the execute stage and with which cause (R222 to R224, R229), and that a faulting one
changes nothing but the run state and the latch while every other goes on (R227, spec decision D9; notes/assumptions/12.md). -/
def Obligations.ExecutionFaultsExactlyAsListedAndPrecisely : Prop :=
  ∀ (i : Instr) (s : State),
    match (match i with
      | .call _ => if s.sp.val = 1024 then some Fault.stackOverflow else none
      | .ret => if s.sp.val = 0 then some .stackUnderflow else none
      | .drw _ _ n =>
        if n ≠ 0 ∧ 4095 < s.i.toNat + n - 1 then some (.memoryOutOfBounds (max s.i.toNat 4096)) else none
      | .ldB _ => if 4095 < s.i.toNat + 2 then some (.memoryOutOfBounds (max s.i.toNat 4096)) else none
      | .dump x | .load x =>
        if 4095 < s.i.toNat + x.val then some (.memoryOutOfBounds (max s.i.toNat 4096)) else none
      | _ => none) with
    | some f => exec i s = .next (s.halted f)
    | none => ∃ t, exec i s = .next t ∧ s.sameOn t .run ∧ s.sameOn t .fault

/-- R22: `VF` changes only by the six groups of flag writers, which leave 0 or 1 in it, or as a named destination (spec
decisions D6, D13; notes/assumptions/9.md). -/
def Obligations.OnlyFlagWritersAndDestinationsChangeVF : Prop :=
  ∀ (i : Instr) (s t : State), exec i s = .next t → t.run ≠ .halted →
    match i with
    | .addImm _ _ | .addReg _ _ | .subReg _ _ | .subn _ _ | .shr _ | .shl _ | .drw _ _ _ =>
      t.reg 15 = 0 ∨ t.reg 15 = 1
    | .ldImm x _ | .ldReg x _ | .orReg x _ | .andReg x _ | .xorReg x _ | .rnd x _ | .ldVxDt x | .ldVxK x
    | .load x => x = 15 ∨ t.reg 15 = s.reg 15
    | _ => t.reg 15 = s.reg 15

/-- Which instructions write which piece of state: the stack (R29), the display (R34), `I` (R24), memory (R66) and the two
timers (R207) have no other writers among the instructions. -/
def Obligations.EachPieceOfStateHasItsOwnWriters : Prop :=
  ∀ (i : Instr) (s t : State), exec i s = .next t →
    (t.stack ≠ s.stack → ∃ nnn, i = .call nnn) ∧
    (t.sp ≠ s.sp → (∃ nnn, i = .call nnn) ∨ i = .ret) ∧
    ((∃ p, t.fb.pixel p ≠ s.fb.pixel p) → i = .cls ∨ ∃ x y n, i = .drw x y n) ∧
    (t.i ≠ s.i → (∃ nnn, i = .ldI nnn) ∨ (∃ x, i = .addI x) ∨ ∃ x, i = .ldF x) ∧
    ((∃ a, t.mem.read a ≠ s.mem.read a) → (∃ x, i = .ldB x) ∨ ∃ x, i = .dump x) ∧
    (t.dt ≠ s.dt → ∃ x, i = .ldDtVx x) ∧
    (t.st ≠ s.st → ∃ x, i = .ldStVx x)

/-- What the moves of the ticker and of the host leave alone (R6, R73, R207, R233, R241, R245; the model's own fields:
notes/assumptions/4.md to 7.md). -/
def Obligations.TheOtherAgentsTouchOnlyTheirOwnState : Prop :=
  ∀ s : State,
    (s.nextMove = .tick → ∃ t, step s = .next t ∧ s.UnchangedBut t [.delay, .sound, .emitted, .schedule]) ∧
    (∀ k held, s.nextMove = .setKey k held → ∃ t, step s = .next t ∧ t.held k = held ∧
      (∀ k', k' ≠ k → t.held k' = s.held k') ∧ s.UnchangedBut t [.keyHeld, .schedule]) ∧
    (∀ r, s.nextMove = .supplyRandom r → ∃ t, step s = .next t ∧ t.rndQueue = s.rndQueue ++ [r] ∧
      t.rndCount = s.rndCount ∧ s.UnchangedBut t [.random, .schedule])

/-- A timer is higher after a step only when the executor ran the instruction that sets it (10_state.md R32,
70_reset_and_hazards.md R273). -/
def Obligations.ATimerRisesOnlyByItsSetInstruction : Prop :=
  ∀ s t : State, step s = .next t →
    (s.dt.toNat < t.dt.toNat →
      s.run = .running ∧ s.nextMove = .execute ∧ ∃ w x, s.fetch = .ok w ∧ decode w = some (.ldDtVx x)) ∧
    (s.st.toNat < t.st.toNat →
      s.run = .running ∧ s.nextMove = .execute ∧ ∃ w x, s.fetch = .ok w ∧ decode w = some (.ldStVx x))

/-! ## Load, arithmetic, logic and shift -/

/-- R120. -/
def Obligations.LoadImmediateWritesTheByte : Prop :=
  ∀ (x : Reg) (nn : Byte) (s : State), ∃ t, exec (.ldImm x nn) s = .next t ∧
    (∀ r, t.reg r = if r = x then nn else s.reg r) ∧ s.UnchangedBut t [.regs]

/-- R122 to R125: copy, OR, AND and XOR write only `V[x]`, no flag (the spec's general knowledge G2 and decision D6). -/
def Obligations.CopyAndLogicWriteOnlyTheDestination : Prop :=
  ∀ (x y : Reg) (s : State),
    (∃ t, exec (.ldReg x y) s = .next t ∧ (∀ r, t.reg r = if r = x then s.reg y else s.reg r) ∧
      s.UnchangedBut t [.regs]) ∧
    (∃ t, exec (.orReg x y) s = .next t ∧ (∀ r, t.reg r = if r = x then s.reg x ||| s.reg y else s.reg r) ∧
      s.UnchangedBut t [.regs]) ∧
    (∃ t, exec (.andReg x y) s = .next t ∧ (∀ r, t.reg r = if r = x then s.reg x &&& s.reg y else s.reg r) ∧
      s.UnchangedBut t [.regs]) ∧
    (∃ t, exec (.xorReg x y) s = .next t ∧ (∀ r, t.reg r = if r = x then s.reg x ^^^ s.reg y else s.reg r) ∧
      s.UnchangedBut t [.regs])

/-- R121: the flag is written always; with `x = 0xF` it is what stays. -/
def Obligations.AddImmediateWrapsAndWritesTheCarry : Prop :=
  ∀ (x : Reg) (nn : Byte) (s : State), ∃ t, exec (.addImm x nn) s = .next t ∧
    (t.reg 15).toNat = (if (s.reg x).toNat + nn.toNat ≥ 256 then 1 else 0) ∧
    (x ≠ 15 → (t.reg x).toNat = ((s.reg x).toNat + nn.toNat) % 256) ∧
    (∀ r, r ≠ 15 → r ≠ x → t.reg r = s.reg r) ∧ s.UnchangedBut t [.regs]

/-- R126: the flag is written always; with `x = 0xF` it is what stays, with `y = 0xF` the old `VF` is added. -/
def Obligations.AddRegisterWrapsAndWritesTheCarry : Prop :=
  ∀ (x y : Reg) (s : State), ∃ t, exec (.addReg x y) s = .next t ∧
    (t.reg 15).toNat = (if (s.reg x).toNat + (s.reg y).toNat ≥ 256 then 1 else 0) ∧
    (x ≠ 15 → (t.reg x).toNat = ((s.reg x).toNat + (s.reg y).toNat) % 256) ∧
    (∀ r, r ≠ 15 → r ≠ x → t.reg r = s.reg r) ∧ s.UnchangedBut t [.regs]

/-- R127: the flag says that there was no borrow. -/
def Obligations.SubtractWrapsAndWritesNoBorrow : Prop :=
  ∀ (x y : Reg) (s : State), ∃ t, exec (.subReg x y) s = .next t ∧
    (t.reg 15).toNat = (if (s.reg y).toNat ≤ (s.reg x).toNat then 1 else 0) ∧
    (x ≠ 15 → ((t.reg x).toNat : Int) = ((s.reg x).toNat - (s.reg y).toNat : Int) % 256) ∧
    (∀ r, r ≠ 15 → r ≠ x → t.reg r = s.reg r) ∧ s.UnchangedBut t [.regs]

/-- R129 in the consistent form of 90_conflicts.md C4 (spec decision D5; notes/assumptions/11.md). -/
def Obligations.SubtractReversedTakesXFromY : Prop :=
  ∀ (x y : Reg) (s : State), ∃ t, exec (.subn x y) s = .next t ∧
    (t.reg 15).toNat = (if (s.reg x).toNat ≤ (s.reg y).toNat then 1 else 0) ∧
    (x ≠ 15 → ((t.reg x).toNat : Int) = ((s.reg y).toNat - (s.reg x).toNat : Int) % 256) ∧
    (∀ r, r ≠ 15 → r ≠ x → t.reg r = s.reg r) ∧ s.UnchangedBut t [.regs]

/-- R128: in place, the flag is the bit shifted out. -/
def Obligations.ShiftRightHalvesAndFlagsTheLowBit : Prop :=
  ∀ (x : Reg) (s : State), ∃ t, exec (.shr x) s = .next t ∧
    (t.reg 15 = if (s.reg x).getLsbD 0 then 1 else 0) ∧
    (x ≠ 15 → t.reg x = s.reg x >>> 1) ∧
    (∀ r, r ≠ 15 → r ≠ x → t.reg r = s.reg r) ∧ s.UnchangedBut t [.regs]

/-- R130: in place, the flag is the bit shifted out. -/
def Obligations.ShiftLeftDoublesAndFlagsTheHighBit : Prop :=
  ∀ (x : Reg) (s : State), ∃ t, exec (.shl x) s = .next t ∧
    (t.reg 15 = if (s.reg x).getLsbD 7 then 1 else 0) ∧
    (x ≠ 15 → t.reg x = s.reg x <<< 1) ∧
    (∀ r, r ≠ 15 → r ≠ x → t.reg r = s.reg r) ∧ s.UnchangedBut t [.regs]

/-- The shift laws of 95_test_vectors.md section 12: right then left clears bit 0, left then right clears bit 7. -/
def Obligations.OppositeShiftsClearTheEndBit : Prop :=
  ∀ (x : Reg) (s : State), x ≠ 15 →
    (∃ t u, exec (.shr x) s = .next t ∧ exec (.shl x) t = .next u ∧ u.reg x = s.reg x &&& 0xFE) ∧
    (∃ t u, exec (.shl x) s = .next t ∧ exec (.shr x) t = .next u ∧ u.reg x = s.reg x &&& 0x7F)

/-! ## Control flow -/

/-- R140 to R143 under the common rule R148: a skip adds 2 to `pc`, modulo 65536, exactly when its condition holds, and
changes nothing else. -/
def Obligations.SkipsAdvanceExactlyWhenTheirConditionHolds : Prop :=
  ∀ (x y : Reg) (nn : Byte) (s : State),
    (∃ t, exec (.seImm x nn) s = .next t ∧
      t.pc.toNat = (if s.reg x = nn then (s.pc.toNat + 2) % 65536 else s.pc.toNat) ∧ s.UnchangedBut t [.pc]) ∧
    (∃ t, exec (.sneImm x nn) s = .next t ∧
      t.pc.toNat = (if s.reg x ≠ nn then (s.pc.toNat + 2) % 65536 else s.pc.toNat) ∧ s.UnchangedBut t [.pc]) ∧
    (∃ t, exec (.seReg x y) s = .next t ∧
      t.pc.toNat = (if s.reg x = s.reg y then (s.pc.toNat + 2) % 65536 else s.pc.toNat) ∧ s.UnchangedBut t [.pc]) ∧
    (∃ t, exec (.sneReg x y) s = .next t ∧
      t.pc.toNat = (if s.reg x ≠ s.reg y then (s.pc.toNat + 2) % 65536 else s.pc.toNat) ∧ s.UnchangedBut t [.pc])

/-- R144: the address after the call is pushed and `pc` is `NNN`; at full depth `StackOverflow` and nothing else. -/
def Obligations.CallPushesTheNextAddressAndJumps : Prop :=
  ∀ (nnn : Addr12) (s : State),
    (∀ h : s.sp.val < 1024, ∃ t, exec (.call nnn) s = .next t ∧
      t.stack[s.sp.val] = s.pc ∧ (∀ (k : Nat) (hk : k < 1024), k ≠ s.sp.val → t.stack[k] = s.stack[k]) ∧
      t.sp.val = s.sp.val + 1 ∧ t.pc.toNat = nnn.toNat ∧ s.UnchangedBut t [.stack, .sp, .pc]) ∧
    (s.sp.val = 1024 → exec (.call nnn) s = .next (s.halted .stackOverflow))

/-- R145: the top entry goes to `pc` and stays in its place; on an empty stack `StackUnderflow` and nothing else. -/
def Obligations.ReturnPopsTheStackIntoPc : Prop :=
  ∀ s : State,
    (∀ h : 0 < s.sp.val, ∃ t, exec .ret s = .next t ∧
      t.pc = s.stack[s.sp.val - 1] ∧ t.sp.val + 1 = s.sp.val ∧ s.UnchangedBut t [.sp, .pc]) ∧
    (s.sp.val = 0 → exec .ret s = .next (s.halted .stackUnderflow))

/-- R149: after a call, whatever runs at or above the call's depth, a return at that depth (wherever it stands) brings
`pc` to the address after the call and the depth to what it was. That the stack is never popped below the call's depth in
between is what "the same depth" of 95_test_vectors.md section 12 asks; the rule itself leaves it unsaid. -/
def Obligations.AReturnAtTheCallsDepthResumesAfterTheCall : Prop :=
  ∀ (nnn : Addr12) (s t u : State) (p : Word), s.sp.val < 1024 → exec (.call nnn) s = .next t →
    StepsAbove t.sp.val t u → u.sp = t.sp →
    ∃ w, exec .ret (u.setPc p) = .next w ∧ w.pc = s.pc ∧ w.sp = s.sp

/-- R146. -/
def Obligations.JumpSetsPcToTheAddress : Prop :=
  ∀ (nnn : Addr12) (s : State), ∃ t, exec (.jp nnn) s = .next t ∧ t.pc.toNat = nnn.toNat ∧ s.UnchangedBut t [.pc]

/-- R147: register 0 is added, and the sum is not masked (spec decision D32). -/
def Obligations.OffsetJumpAddsRegisterZero : Prop :=
  ∀ (nnn : Addr12) (s : State), ∃ t, exec (.jpV0 nnn) s = .next t ∧
    t.pc.toNat = nnn.toNat + (s.reg 0).toNat ∧ s.UnchangedBut t [.pc]

/-- R269 with the spec's convention D33: where `pc` addresses a jump to itself, an instruction step changes nothing. -/
def Obligations.AJumpToItselfRests : Prop :=
  ∀ s : State, s.run = .running → s.nextMove = .execute → s.complete → step s = .next s.dropMove

/-! ## Random and index -/

/-- R160: the destination is the draw and the mask, whatever the draw: the byte the host supplied, else the free value of
this draw's number, of which nothing is known (notes/assumptions/4.md). Each draw is used once. -/
def Obligations.RandomWritesTheMaskedDraw : Prop :=
  ∀ (x : Reg) (nn : Byte) (s : State), ∃ t, exec (.rnd x nn) s = .next t ∧
    (∀ r rest, s.rndQueue = r :: rest → t.reg x = r &&& nn ∧ t.rndQueue = rest) ∧
    (s.rndQueue = [] → t.reg x = Config.freeRandom s.rndCount &&& nn ∧ t.rndQueue = []) ∧
    t.rndCount = s.rndCount + 1 ∧ (∀ r, r ≠ x → t.reg r = s.reg r) ∧ s.UnchangedBut t [.regs, .random]

/-- R161 to R163: `I` is loaded, added to modulo 65536 without a flag, or pointed at the glyph of the low nibble (general
knowledge G2, G3 and decisions D13, D14; notes/assumptions/10.md). -/
def Obligations.IndexInstructionsWriteOnlyTheIndex : Prop :=
  ∀ (nnn : Addr12) (x : Reg) (s : State),
    (∃ t, exec (.ldI nnn) s = .next t ∧ t.i.toNat = nnn.toNat ∧ s.UnchangedBut t [.index]) ∧
    (∃ t, exec (.addI x) s = .next t ∧ t.i.toNat = (s.i.toNat + (s.reg x).toNat) % 65536 ∧
      s.UnchangedBut t [.index]) ∧
    (∃ t, exec (.ldF x) s = .next t ∧ t.i.toNat = 5 * ((s.reg x).toNat % 16) ∧ s.UnchangedBut t [.index])

/-! ## Display -/

/-- R170: all pixels off, the presenter told, no flag. -/
def Obligations.ClearTurnsEveryPixelOff : Prop :=
  ∀ s : State, ∃ t, exec .cls s = .next t ∧ (∀ p, t.fb.pixel p = false) ∧ t.emitted = .fbUpdated :: s.emitted ∧
    s.UnchangedBut t [.display, .emitted]

/-- R171 to R175, R177, R179, R180: exactly the drawn pixels are inverted, `VF` is 1 exactly when one of them was on, and
the presenter is told. The order of a byte's bits is the spec's general knowledge G5 (decision D11). -/
def Obligations.DrawInvertsTheSpritesPixelsAndFlagsCollision : Prop :=
  ∀ (x y : Reg) (n : Nat) (s : State), n = 0 ∨ s.i.toNat + n ≤ 4096 → ∃ t, exec (.drw x y n) s = .next t ∧
    (∀ q, s.drawsOn x y n q → t.fb.pixel q = !s.fb.pixel q) ∧
    (∀ q, ¬ s.drawsOn x y n q → t.fb.pixel q = s.fb.pixel q) ∧
    ((∃ q, s.drawsOn x y n q ∧ s.fb.pixel q = true) → t.reg 15 = 1) ∧
    ((¬ ∃ q, s.drawsOn x y n q ∧ s.fb.pixel q = true) → t.reg 15 = 0) ∧
    (∀ r, r ≠ 15 → t.reg r = s.reg r) ∧ t.emitted = .fbUpdated :: s.emitted ∧
    s.UnchangedBut t [.display, .regs, .emitted]

/-- R173: a pixel that changes lies in the sprite's rectangle from its origin rightwards and downwards, so nothing is
wrapped to the other edge; and the flag is set only for a pixel of that rectangle that was on. -/
def Obligations.ASpriteIsClippedAtTheEdges : Prop :=
  ∀ (x y : Reg) (n : Nat) (s t : State), exec (.drw x y n) s = .next t → t.run ≠ .halted →
    (∀ q : Point, t.fb.pixel q ≠ s.fb.pixel q →
      (s.reg x).toNat % 64 ≤ q.1.val ∧ q.1.val < (s.reg x).toNat % 64 + 8 ∧
        (s.reg y).toNat % 32 ≤ q.2.val ∧ q.2.val < (s.reg y).toNat % 32 + n) ∧
    (t.reg 15 = 1 → ∃ q : Point, s.fb.pixel q = true ∧
      (s.reg x).toNat % 64 ≤ q.1.val ∧ q.1.val < (s.reg x).toNat % 64 + 8 ∧
        (s.reg y).toNat % 32 ≤ q.2.val ∧ q.2.val < (s.reg y).toNat % 32 + n)

/-- R178: the same draw twice gives the display back, and the second flag says whether the first turned a pixel on. -/
def Obligations.DrawingTwiceRestoresTheDisplay : Prop :=
  ∀ (x y : Reg) (n : Nat) (s : State), x ≠ 15 → y ≠ 15 → n = 0 ∨ s.i.toNat + n ≤ 4096 →
    ∃ t u, exec (.drw x y n) s = .next t ∧ exec (.drw x y n) t = .next u ∧
      s.sameOn u .display ∧
      (u.reg 15 = 1 ↔ ∃ q, s.fb.pixel q = false ∧ t.fb.pixel q = true) ∧
      (t.reg 15 = 1 ↔ ∃ q, s.fb.pixel q = true ∧ t.fb.pixel q = false)

/-- R243 with the order of spec decision D23: the presenter's grid is row-major. -/
def Obligations.TheFlatGridIsRowMajor : Prop :=
  ∀ (s : State) (p : Point), s.flatGrid[p.2.val * 64 + p.1.val]? = some (s.fb.pixel p) ∧ s.flatGrid.length = 2048

/-! ## Memory transfer -/

/-- R190: the three digits go to `I`, `I + 1`, `I + 2`; all other bytes and all else are as before. When one of the three
is outside memory the fault is raised and nothing is written (R194, spec decision D9). -/
def Obligations.BcdStoresThreeDigits : Prop :=
  ∀ (x : Reg) (s : State), s.mem.wf →
    (s.i.toNat + 2 ≤ 4095 → ∃ t, exec (.ldB x) s = .next t ∧
      (t.mem.read s.i.toNat).toNat = (s.reg x).toNat / 100 ∧
      (t.mem.read (s.i.toNat + 1)).toNat = (s.reg x).toNat / 10 % 10 ∧
      (t.mem.read (s.i.toNat + 2)).toNat = (s.reg x).toNat % 10 ∧
      (∀ a, a < s.i.toNat ∨ s.i.toNat + 2 < a → t.mem.read a = s.mem.read a) ∧ s.UnchangedBut t [.mem]) ∧
    (4095 < s.i.toNat + 2 → exec (.ldB x) s = .next (s.halted (.memoryOutOfBounds (max s.i.toNat 4096))))

/-- The law of 95_test_vectors.md section 12: the stored digits are digits, and make up the register's value. -/
def Obligations.BcdDigitsMakeUpTheValue : Prop :=
  ∀ (x : Reg) (s t : State), s.mem.wf → s.i.toNat + 2 ≤ 4095 → exec (.ldB x) s = .next t →
    100 * (t.mem.read s.i.toNat).toNat + 10 * (t.mem.read (s.i.toNat + 1)).toNat +
        (t.mem.read (s.i.toNat + 2)).toNat = (s.reg x).toNat ∧
      ∀ k < 3, (t.mem.read (s.i.toNat + k)).toNat ≤ 9

/-- R191: registers 0 to `x` go to `I` upwards; all other bytes and all else are as before, `I` too (decision D12). When
the last byte is outside memory the fault is raised and nothing is written (R194, decision D9). -/
def Obligations.DumpStoresRegistersUpToX : Prop :=
  ∀ (x : Reg) (s : State), s.mem.wf →
    (s.i.toNat + x.val ≤ 4095 → ∃ t, exec (.dump x) s = .next t ∧
      (∀ r, r ≤ x → t.mem.read (s.i.toNat + r.val) = s.reg r) ∧
      (∀ a, a < s.i.toNat ∨ s.i.toNat + x.val < a → t.mem.read a = s.mem.read a) ∧ s.UnchangedBut t [.mem]) ∧
    (4095 < s.i.toNat + x.val → exec (.dump x) s = .next (s.halted (.memoryOutOfBounds (max s.i.toNat 4096))))

/-- R192: registers 0 to `x` come from `I` upwards; the others and all else are as before, `I` too (decision D12). When
the last byte is outside memory the fault is raised and nothing is loaded (R194, decision D9). -/
def Obligations.LoadFillsRegistersUpToX : Prop :=
  ∀ (x : Reg) (s : State),
    (s.i.toNat + x.val ≤ 4095 → ∃ t, exec (.load x) s = .next t ∧
      (∀ r, t.reg r = if r ≤ x then s.mem.read (s.i.toNat + r.val) else s.reg r) ∧ s.UnchangedBut t [.regs]) ∧
    (4095 < s.i.toNat + x.val → exec (.load x) s = .next (s.halted (.memoryOutOfBounds (max s.i.toNat 4096))))

/-- R193: a dump, any change of the registers and of `pc`, then a load with the same `x` gives registers 0 to `x` back. -/
def Obligations.ALoadAfterADumpRestoresTheRegisters : Prop :=
  ∀ (x : Reg) (s t : State) (v : Vector Byte 16) (p : Word), s.mem.wf → s.i.toNat + x.val ≤ 4095 →
    exec (.dump x) s = .next t →
    ∃ u, exec (.load x) { t with v := v, pc := p } = .next u ∧
      (∀ r, r ≤ x → u.reg r = s.reg r) ∧ (∀ r, x < r → u.reg r = v[r.val]) ∧ u.mem = t.mem

/-- 20_memory.md R75: two bytes a dump stores where `pc` points are the next word fetched (spec decision D25). -/
def Obligations.AStoreIsSeenByTheVeryNextFetch : Prop :=
  ∀ (x : Reg) (k : Nat) (hk : k < x.val) (s : State), s.mem.wf → s.i.toNat + x.val ≤ 4095 →
    s.pc.toNat = s.i.toNat + k →
    ∃ t w, exec (.dump x) s = .next t ∧ t.fetch = .ok w ∧
      w.toNat = 256 * (s.reg ⟨k, by omega⟩).toNat + (s.reg ⟨k + 1, by omega⟩).toNat

/-! ## Keypad and timers -/

/-- R200, R201, R206: the skip follows the held level of the key that the low nibble names (general knowledge G2 and
decision D16; notes/assumptions/10.md; the levels: notes/assumptions/5.md). -/
def Obligations.KeySkipsFollowTheHeldKey : Prop :=
  ∀ (x : Reg) (s : State) (k : Key), k.val = (s.reg x).toNat % 16 →
    (∃ t, exec (.skp x) s = .next t ∧
      t.pc.toNat = (if s.keyHeld[k.val] = true then (s.pc.toNat + 2) % 65536 else s.pc.toNat) ∧
      s.UnchangedBut t [.pc]) ∧
    (∃ t, exec (.sknp x) s = .next t ∧
      t.pc.toNat = (if s.keyHeld[k.val] = true then s.pc.toNat else (s.pc.toNat + 2) % 65536) ∧
      s.UnchangedBut t [.pc])

/-- R202: with a key press delivered the key's number is written and the press used up; without one the executor is held,
`pc` at the instruction again and all else as before (spec decision D17; notes/assumptions/6.md). -/
def Obligations.KeyWaitTakesAPressOrHolds : Prop :=
  ∀ (x : Reg) (s : State),
    (∀ k, s.keyEvent = some k → ∃ t, exec (.ldVxK x) s = .next t ∧ (t.reg x).toNat = k.val ∧
      (∀ r, r ≠ x → t.reg r = s.reg r) ∧ t.keyEvent = none ∧ s.UnchangedBut t [.regs, .keyEvent]) ∧
    (s.keyEvent = none → ∃ t, exec (.ldVxK x) s = .next t ∧ t.pc + 2 = s.pc ∧ s.UnchangedBut t [.pc])

/-- R202, R242: in a running machine at `FX0A` a key press completes the instruction in one step, the executor's own turn
changes nothing; a press at any other time changes nothing (spec decision D17; notes/assumptions/6.md). -/
def Obligations.AKeyPressEndsAWaitAndNothingElse : Prop :=
  ∀ s : State, s.keyEvent = none →
    (∀ w x, s.run = .running → s.fetch = .ok w → decode w = some (.ldVxK x) →
      (∀ k, s.nextMove = .keyPress k → ∃ t, step s = .next t ∧ (t.reg x).toNat = k.val ∧
        (∀ r, r ≠ x → t.reg r = s.reg r) ∧ t.pc = s.pc + 2 ∧ s.UnchangedBut t [.regs, .pc, .schedule]) ∧
      (s.nextMove = .execute → step s = .next s.dropMove)) ∧
    ((∀ w x, s.fetch = .ok w → decode w ≠ some (.ldVxK x)) → ∀ k, s.nextMove = .keyPress k →
      step s = .next s.dropMove)

/-- R203 to R205: the timer instructions read or set one timer (general knowledge G2, decision D18). -/
def Obligations.TimerInstructionsReadAndSetTheTimers : Prop :=
  ∀ (x : Reg) (s : State),
    (∃ t, exec (.ldVxDt x) s = .next t ∧ (∀ r, t.reg r = if r = x then s.dt else s.reg r) ∧
      s.UnchangedBut t [.regs]) ∧
    (∃ t, exec (.ldDtVx x) s = .next t ∧ t.dt = s.reg x ∧ s.UnchangedBut t [.delay]) ∧
    (∃ t, exec (.ldStVx x) s = .next t ∧ t.st = s.reg x ∧ s.UnchangedBut t [.sound])

/-- R236: a tick of a running machine, and no tick in any other run state. -/
def Obligations.ATickCountsEachNonzeroTimerDown : Prop :=
  ∀ s : State, s.nextMove = .tick →
    (s.run = .running → ∃ t, step s = .next t ∧
      t.st.toNat = s.st.toNat - 1 ∧ t.dt.toNat = s.dt.toNat - 1 ∧
      t.emitted = (if s.st = 0 then s.emitted else .audioTick :: s.emitted) ∧
      s.UnchangedBut t [.delay, .sound, .emitted, .schedule]) ∧
    (s.run ≠ .running → ∀ t, step s = .next t → s.UnchangedBut t [.schedule])

/-- The law of 95_test_vectors.md section 12 (W11, R237): `n` ticks in a row. -/
def Obligations.ManyTicksCountDownAndSound : Prop :=
  ∀ (n : Nat) (s : State), s.run = .running → ∃ t,
    Sys2Proof.core.run n { s with schedule := List.replicate n .tick ++ s.schedule } = .next t ∧
      t.dt.toNat = s.dt.toNat - n ∧ t.st.toNat = s.st.toNat - n ∧
      t.emitted = List.replicate (min n s.st.toNat) .audioTick ++ s.emitted ∧
      s.UnchangedBut t [.delay, .sound, .emitted]

/-- R273 with the fairness of R238 and R275 (spec decision D19; notes/assumptions/17.md): in a fair run that stays
`RUNNING` and in which the executor never executes the instruction that sets a timer, the timer reaches 0 and stays there. -/
def Obligations.FairTicksBringAnUnsetTimerToZero : Prop :=
  ∀ (states : Nat → State) (moves : Nat → Move), FairRun states moves → (∀ n, (states n).run = .running) →
    ((∀ n w x, moves n = .execute → (states n).fetch = .ok w → decode w ≠ some (.ldDtVx x)) →
      ∃ n, ∀ k ≥ n, (states k).dt = 0) ∧
    ((∀ n w x, moves n = .execute → (states n).fetch = .ok w → decode w ≠ some (.ldStVx x)) →
      ∃ n, ∀ k ≥ n, (states k).st = 0)

/-- R202, R275: an executor held in `FX0A` stays held in every run, fair or not, in which the host neither presses a key nor
resets, and nothing changes but the timers with their events and what the host sets. How a press is delivered is the
model's (notes/assumptions/6.md). -/
def Obligations.OnlyTheHostLiftsAKeyWait : Prop :=
  ∀ (states : Nat → State) (moves : Nat → Move), IsRun states moves →
    (states 0).keyEvent = none → (states 0).waitsForKey = true →
    (∀ n, moves n ≠ .reset ∧ ∀ k, moves n ≠ .keyPress k) →
    ∀ n, (states n).waitsForKey = true ∧
      (states 0).UnchangedBut (states n) [.delay, .sound, .emitted, .keyHeld, .random]

/-! ## Reset, boot and load -/

/-- R261: `pc` is 0x200 after reset, and once the run is started the first word executed is the one at 0x200, 0x201. The
launch state's schedule is empty; that the executor moves then, where R238 and R268 let a tick come first, is the model's
choice (notes/assumptions/1.md). -/
def Obligations.TheFirstInstructionIsAt0x200 : Prop :=
  State.reset.pc.toNat = 0x200 ∧
  ∀ (font : Vector Byte 80) (program : List Byte), ∃ w, (State.launch font program).fetch = .ok w ∧
    w.toNat = 256 * ((State.launch font program).mem.read 0x200).toNat +
      ((State.launch font program).mem.read 0x201).toNat ∧
    ∀ i, decode w = some i → step (State.launch font program) = exec i ((State.launch font program).setPc 0x202)

/-- R38: the reset values of the machine's state (`run` and `fault` are spec decision D26). -/
def Obligations.ResetLeavesTheListedValues : Prop :=
  (∀ a, State.reset.mem.read a = 0) ∧ (∀ r, State.reset.reg r = 0) ∧ State.reset.i = 0 ∧ State.reset.pc = 0x200 ∧
  (∀ (k : Nat) (h : k < 1024), State.reset.stack[k] = 0) ∧ State.reset.sp.val = 0 ∧ State.reset.dt = 0 ∧
  State.reset.st = 0 ∧ (∀ p, State.reset.fb.pixel p = false) ∧ State.reset.run = .boot ∧ State.reset.fault = none

/-- R262, R230: a host reset in any run state gives the reset state of the machine, the pieces of 10_state.md section 8 among
them (spec decision D26). That the fields beside the machine's state are not reset is the model's choice: the key levels
(notes/assumptions/5.md), the random source (notes/assumptions/4.md), the emitted events (notes/assumptions/7.md), and the
moves to come (notes/assumptions/1.md). -/
def Obligations.AHostResetWorksInEveryRunState : Prop :=
  ∀ s : State, s.nextMove = .reset → ∃ t, step s = .next t ∧
    State.reset.UnchangedBut t [.keyHeld, .random, .emitted, .schedule] ∧
    s.sameOn t .keyHeld ∧ s.sameOn t .random ∧ s.sameOn t .emitted

/-- R265, R266 in `BOOT`: a program of at most 3584 bytes is written from 0x200 and nothing else changes; a larger one
changes no byte and is reported, and is no machine fault (the report: notes/assumptions/7.md; decision D27). -/
def Obligations.LoadingAProgramIsAllOrNothing : Prop :=
  ∀ (program : List Byte) (s : State), s.mem.wf → s.run = .boot → s.nextMove = .load program →
    (program.length ≤ 3584 → ∃ t, step s = .next t ∧
      (∀ (k : Nat) (h : k < program.length), t.mem.read (0x200 + k) = program[k]) ∧
      (∀ a, a < 0x200 ∨ 0x200 + program.length ≤ a → t.mem.read a = s.mem.read a) ∧
      s.UnchangedBut t [.mem, .schedule]) ∧
    (3584 < program.length → ∃ t, step s = .next t ∧ t.emitted = .capacityError :: s.emitted ∧
      s.UnchangedBut t [.emitted, .schedule])

/-- R268: from reset, the host's font, load and start lead to the launch state of a claim. -/
def Obligations.BootLeadsToTheLaunchState : Prop :=
  ∀ (font : Vector Byte 80) (program : List Byte), program.length ≤ 3584 → ∃ t,
    Sys2Proof.core.run 3 { State.reset with schedule := [.installFont font, .load program, .start] } = .next t ∧
      (∀ (k : Nat) (h : k < 80), t.mem.read k = font[k]) ∧
      (∀ (k : Nat) (h : k < program.length), t.mem.read (0x200 + k) = program[k]) ∧
      (∀ a, (80 ≤ a ∧ a < 0x200) ∨ 0x200 + program.length ≤ a → t.mem.read a = 0) ∧
      t.run = .running ∧ t.fault = none ∧ State.reset.UnchangedBut t [.mem, .run]
end

