-- ==== Sys2Proof/Laws/Word.lean ====
section
/-! SUPPORT. The ranges of the machine's word types, as numbers. -/

namespace Sys2Proof

theorem Byte.toNat_lt (b : Byte) : b.toNat < 256 := b.isLt

theorem Word.toNat_lt (w : Word) : w.toNat < 65536 := w.isLt

theorem Addr12.toNat_lt (a : Addr12) : a.toNat < 4096 := a.isLt

theorem Reg.val_lt (x : Reg) : x.val < 16 := x.isLt

end Sys2Proof
end

