-- ==== Sys2Proof/Laws/Decode.lean ====
section
/-! SUPPORT. The fields of an encoded word, and a word rebuilt from its fields. -/

namespace Sys2Proof

theorem toNat_wordNNN {c : Nat} (hc : c < 16) (nnn : Addr12) : (wordNNN c nnn).toNat = c * 0x1000 + nnn.toNat := by
  have := nnn.isLt
  rw [wordNNN, BitVec.toNat_ofNat]
  omega

theorem toNat_wordXNN {c nn : Nat} (hc : c < 16) (x : Reg) (hn : nn < 256) :
    (wordXNN c x nn).toNat = c * 0x1000 + x.val * 0x100 + nn := by
  have := Reg.val_lt x
  rw [wordXNN, BitVec.toNat_ofNat]
  omega

theorem toNat_wordXYN {c n : Nat} (hc : c < 16) (x y : Reg) (hn : n < 16) :
    (wordXYN c x y n).toNat = c * 0x1000 + x.val * 0x100 + y.val * 0x10 + n := by
  have := Reg.val_lt x
  have := Reg.val_lt y
  rw [wordXYN, BitVec.toNat_ofNat]
  omega

/-! ### The fields, as numbers -/

theorem slice_class (w : Word) : slice w 15 12 = w.toNat / 0x1000 := by
  have := w.isLt
  simp only [slice, Nat.reduceAdd, Nat.reduceSub, Nat.reducePow]
  omega

theorem slice_low (w : Word) : slice w 7 0 = w.toNat % 0x100 := by
  simp [slice]

theorem fieldN_eq (w : Word) : fieldN w = w.toNat % 0x10 := by
  simp [fieldN, slice]

theorem val_fieldX (w : Word) : (fieldX w).val = w.toNat / 0x100 % 0x10 := by
  simp [fieldX, slice, Fin.ofNat]

theorem val_fieldY (w : Word) : (fieldY w).val = w.toNat / 0x10 % 0x10 := by
  simp [fieldY, slice, Fin.ofNat]

theorem toNat_fieldNN (w : Word) : (fieldNN w).toNat = w.toNat % 0x100 := by
  simp [fieldNN, slice]

theorem toNat_fieldNNN (w : Word) : (fieldNNN w).toNat = w.toNat % 0x1000 := by
  simp [fieldNNN, slice]

/-! ### The fields of an encoded word -/

section
variable {c : Nat} (hc : c < 16)
include hc

theorem class_wordNNN (nnn : Addr12) : slice (wordNNN c nnn) 15 12 = c := by
  have := nnn.isLt
  rw [slice_class, toNat_wordNNN hc]
  omega

theorem fieldNNN_wordNNN (nnn : Addr12) : fieldNNN (wordNNN c nnn) = nnn := by
  have := nnn.isLt
  apply BitVec.eq_of_toNat_eq
  rw [toNat_fieldNNN, toNat_wordNNN hc]
  omega

theorem class_wordXNN (x : Reg) {nn : Nat} (hn : nn < 256) : slice (wordXNN c x nn) 15 12 = c := by
  have := Reg.val_lt x
  rw [slice_class, toNat_wordXNN hc x hn]
  omega

theorem fieldX_wordXNN (x : Reg) {nn : Nat} (hn : nn < 256) : fieldX (wordXNN c x nn) = x := by
  have := Reg.val_lt x
  apply Fin.ext
  rw [val_fieldX, toNat_wordXNN hc x hn]
  omega

theorem low_wordXNN (x : Reg) {nn : Nat} (hn : nn < 256) : slice (wordXNN c x nn) 7 0 = nn := by
  rw [slice_low, toNat_wordXNN hc x hn]
  omega

theorem fieldNN_wordXNN (x : Reg) (nn : Byte) : fieldNN (wordXNN c x nn.toNat) = nn := by
  have := Byte.toNat_lt nn
  apply BitVec.eq_of_toNat_eq
  rw [toNat_fieldNN, toNat_wordXNN hc x nn.isLt]
  omega

theorem class_wordXYN (x y : Reg) {n : Nat} (hn : n < 16) : slice (wordXYN c x y n) 15 12 = c := by
  have := Reg.val_lt x
  have := Reg.val_lt y
  rw [slice_class, toNat_wordXYN hc x y hn]
  omega

theorem fieldX_wordXYN (x y : Reg) {n : Nat} (hn : n < 16) : fieldX (wordXYN c x y n) = x := by
  have := Reg.val_lt x
  have := Reg.val_lt y
  apply Fin.ext
  rw [val_fieldX, toNat_wordXYN hc x y hn]
  omega

theorem fieldY_wordXYN (x y : Reg) {n : Nat} (hn : n < 16) : fieldY (wordXYN c x y n) = y := by
  have := Reg.val_lt x
  have := Reg.val_lt y
  apply Fin.ext
  rw [val_fieldY, toNat_wordXYN hc x y hn]
  omega

theorem fieldN_wordXYN (x y : Reg) {n : Nat} (hn : n < 16) : fieldN (wordXYN c x y n) = n := by
  rw [fieldN_eq, toNat_wordXYN hc x y hn]
  omega

end

/-- The two bytes of a word make up the word. -/
theorem wordOfBytes_high_low (w : Word) : wordOfBytes (highByte w) (lowByte w) = w := by
  have := w.isLt
  apply BitVec.eq_of_toNat_eq
  simp only [wordOfBytes, highByte, lowByte, slice, Config.regWidth, BitVec.toNat_ofNat, Nat.reduceAdd, Nat.reduceSub,
    Nat.reducePow]
  omega

theorem toNat_wordOfBytes (hi lo : Byte) : (wordOfBytes hi lo).toNat = 256 * hi.toNat + lo.toNat := by
  have := Byte.toNat_lt hi
  have := Byte.toNat_lt lo
  rw [wordOfBytes, BitVec.toNat_ofNat]
  omega

end Sys2Proof
end

