-- ==== Sys2Proof/Laws/Display.lean ====
section
/-! SUPPORT. The display: pixels after a toggle, after a whole blit, and which pixels a sprite toggles. -/

namespace Sys2Proof.Machine

@[simp] theorem Display.pixel_clear (p : Point) : Display.clear.pixel p = false := by
  simp [Display.pixel, Display.clear]

/-- A toggle changes one pixel. -/
theorem Display.pixel_toggle (d : Display) (p q : Point) :
    (d.toggle p).pixel q = if q = p then !d.pixel p else d.pixel q := by
  obtain ⟨px, py⟩ := p
  obtain ⟨qx, qy⟩ := q
  simp only [Display.pixel, Display.toggle, Vector.getElem_set, Prod.ext_iff, Fin.ext_iff]
  by_cases hy : py.val = qy.val <;> by_cases hx : px.val = qx.val <;>
    simp [hy, hx, eq_comm]

/-- Displays with the same pixels are equal. -/
theorem Display.ext_pixel {d e : Display} (h : ∀ p, d.pixel p = e.pixel p) : d = e :=
  Vector.ext fun y hy => Vector.ext fun x hx => h (⟨x, hx⟩, ⟨y, hy⟩)

/-- Plotting distinct points from a display and a collision so far: each point's pixel is inverted, and the collision
is the old one or a point that was on. -/
theorem foldl_plot {ps : List Point} (hn : ps.Nodup) (d : Display) (b : Bool) :
    (∀ q, (ps.foldl plot (d, b)).1.pixel q = (d.pixel q ^^ decide (q ∈ ps))) ∧
      (ps.foldl plot (d, b)).2 = (b || ps.any d.pixel) := by
  induction ps generalizing d b with
  | nil => simp
  | cons p ps ih =>
    obtain ⟨hp, hps⟩ := List.nodup_cons.1 hn
    obtain ⟨ihp, ihc⟩ := ih hps (d.toggle p) (b || d.pixel p)
    refine ⟨fun q => ?_, ?_⟩
    · rw [List.foldl_cons, plot, ihp, Display.pixel_toggle]
      by_cases hq : q = p
      · subst hq
        simp [hp]
      · simp [hq]
    · rw [List.foldl_cons, plot, ihc, List.any_cons, Bool.or_assoc]
      congr 2
      have hpx : ∀ q ∈ ps, (d.toggle p).pixel q = d.pixel q := fun q hq => by
        rw [Display.pixel_toggle, if_neg (ne_of_mem_of_not_mem hq hp)]
      rw [Bool.eq_iff_iff, List.any_eq_true, List.any_eq_true]
      exact exists_congr fun q => and_congr_right fun hq => by rw [hpx q hq]

/-- A blit of distinct points inverts exactly those pixels. -/
theorem blit_pixel {ps : List Point} (hn : ps.Nodup) (d : Display) (q : Point) :
    (blit d ps).1.pixel q = (d.pixel q ^^ decide (q ∈ ps)) :=
  (foldl_plot hn d false).1 q

/-- A blit of distinct points collides when one of their pixels was on. -/
theorem blit_collided {ps : List Point} (hn : ps.Nodup) (d : Display) : (blit d ps).2 = ps.any d.pixel :=
  (foldl_plot hn d false).2.trans (Bool.false_or _)

/-- Where a sprite's bit lands, when it is drawn. -/
theorem spritePoint_eq_some {x0 : Fin Config.dispW} {y0 : Fin Config.dispH} {r c : Nat} {b : Byte} {q : Point} :
    spritePoint x0 y0 r c b = some q ↔
      q.1.val = x0.val + c ∧ q.2.val = y0.val + r ∧ b.getLsbD (7 - c) = true := by
  unfold spritePoint
  obtain ⟨⟨qx, hx⟩, ⟨qy, hy⟩⟩ := q
  split
  · split
    · simp only [Option.some.injEq, Prod.mk.injEq, Fin.mk.injEq]
      constructor
      · rintro ⟨rfl, rfl⟩
        exact ⟨rfl, rfl, ‹_›⟩
      · rintro ⟨h1, h2, -⟩
        exact ⟨h1.symm, h2.symm⟩
    · rename_i hb
      simp [hb]
  · simp only [reduceCtorEq, false_iff]
    rintro ⟨h1, h2, -⟩
    omega

/-- The pixels a sprite toggles: inside the grid, from a row and a column of the sprite whose bit is 1. -/
theorem mem_spritePoints {x0 : Fin Config.dispW} {y0 : Fin Config.dispH} {n : Nat} {row : Nat → Byte} {q : Point} :
    q ∈ spritePoints x0 y0 n row ↔
      ∃ r < n, ∃ c < 8, q.1.val = x0.val + c ∧ q.2.val = y0.val + r ∧ (row r).getLsbD (7 - c) = true := by
  simp only [spritePoints, List.mem_flatMap, List.mem_range, List.mem_filterMap, spritePoint_eq_some]

/-- No pixel is toggled twice by one sprite. -/
theorem nodup_spritePoints (x0 : Fin Config.dispW) (y0 : Fin Config.dispH) (n : Nat) (row : Nat → Byte) :
    (spritePoints x0 y0 n row).Nodup := by
  unfold spritePoints
  rw [List.nodup_flatMap]
  constructor
  · intro r _
    refine List.Nodup.filterMap (fun c c' q hc hc' => ?_) List.nodup_range
    have h := (spritePoint_eq_some.1 hc).1
    have h' := (spritePoint_eq_some.1 hc').1
    omega
  · refine List.Pairwise.imp (fun {r r'} hne => ?_) (List.nodup_range (n := n))
    intro q hq hq'
    simp only [List.mem_filterMap, spritePoint_eq_some] at hq hq'
    obtain ⟨c, -, -, h, -⟩ := hq
    obtain ⟨c', -, -, h', -⟩ := hq'
    exact hne (by omega)

/-- Drawing the same distinct points twice restores the display. -/
theorem blit_blit {ps : List Point} (hn : ps.Nodup) (d : Display) : (blit (blit d ps).1 ps).1 = d :=
  Display.ext_pixel fun q => by
    rw [blit_pixel hn, blit_pixel hn, Bool.xor_assoc, Bool.xor_self, Bool.xor_false]

end Sys2Proof.Machine
end

