-- ==== Sys2Proof/Laws/Memory.lean ====
section
/-! SUPPORT. Memory: reading after writing, and that every operation keeps the canonical form. -/

namespace Sys2Proof.Machine

namespace Memory

@[simp] theorem read_nil (a : Nat) : Memory.read [] a = Config.unlistedByte := rfl

@[simp] theorem read_cons (c : Host.Cell) (m : Memory) (a : Nat) :
    Memory.read (c :: m) a = if a = c.1 then c.2 else Memory.read m a := rfl

theorem wf_nil : Memory.wf [] := by simp [Memory.wf]

theorem wf_cons {c : Host.Cell} {m : Memory} :
    Memory.wf (c :: m) ↔
      (∀ d ∈ m, c.1 < d.1) ∧ c.1 < 4096 ∧ c.2 ≠ Config.unlistedByte ∧ Memory.wf m := by
  simp only [Memory.wf, List.pairwise_cons, List.forall_mem_cons]
  tauto

theorem read_below {m : Memory} {a : Nat} (h : ∀ d ∈ m, a < d.1) : m.read a = Config.unlistedByte := by
  induction m with
  | nil => rfl
  | cons c m ih =>
    have hc := h c (by simp)
    rw [read_cons, if_neg (by omega), ih fun d hd => h d (by simp [hd])]

/-- Whatever is listed after a write was listed before it, or is the byte written. -/
theorem mem_write {m : Memory} {a : Nat} {v : Byte} {d : Host.Cell} (h : d ∈ m.write a v) :
    d ∈ m ∨ (d = (a, v) ∧ v ≠ Config.unlistedByte) := by
  induction m with
  | nil =>
    rw [Memory.write] at h
    split at h <;> simp_all
  | cons c m ih =>
    rw [Memory.write] at h
    split at h
    · split at h <;> simp_all
      tauto
    · split at h
      · split at h <;> simp_all
        tauto
      · rcases List.mem_cons.1 h with rfl | h
        · simp
        · rcases ih h with h | ⟨h, hv⟩
          · simp [h]
          · exact .inr ⟨h, hv⟩

theorem write_wf {m : Memory} {a : Nat} {v : Byte} (hm : m.wf) (ha : a < 4096) : (m.write a v).wf := by
  induction m with
  | nil =>
    rw [Memory.write]
    split
    · exact wf_nil
    · rename_i hv
      exact wf_cons.2 ⟨by simp, ha, hv, wf_nil⟩
  | cons c m ih =>
    obtain ⟨hlt, hc, hz, hw⟩ := wf_cons.1 hm
    rw [Memory.write]
    split
    · rename_i hac
      split
      · exact hm
      · rename_i hv
        refine wf_cons.2 ⟨fun d hd => ?_, ha, hv, hm⟩
        rcases List.mem_cons.1 hd with rfl | hd
        · exact hac
        · exact Nat.lt_trans hac (hlt d hd)
    · split
      · rename_i hac
        split
        · exact hw
        · rename_i hv
          exact wf_cons.2 ⟨by rw [hac]; exact hlt, ha, hv, hw⟩
      · refine wf_cons.2 ⟨fun d hd => ?_, hc, hz, ih hw⟩
        rcases mem_write hd with hd | ⟨rfl, -⟩
        · exact hlt d hd
        · show c.1 < a
          omega

/-- Read after write: the byte written at its address, the old byte at every other. -/
theorem read_write {m : Memory} (hm : m.wf) (a b : Nat) (v : Byte) :
    (m.write a v).read b = if b = a then v else m.read b := by
  induction m with
  | nil =>
    rw [Memory.write]
    split <;> simp_all
  | cons c m ih =>
    obtain ⟨hlt, -, -, hw⟩ := wf_cons.1 hm
    rw [Memory.write]
    split
    · rename_i hac
      split
      · rename_i hv
        split
        · rename_i hba
          subst hba hv
          refine read_below fun d hd => ?_
          rcases List.mem_cons.1 hd with rfl | hd
          · exact hac
          · exact Nat.lt_trans hac (hlt d hd)
        · rfl
      · rfl
    · split
      · rename_i hac
        split
        · rename_i hv
          split
          · rename_i hba
            rw [hba, hac, hv]
            exact read_below hlt
          · rename_i hba
            rw [read_cons, if_neg (hac ▸ hba)]
        · rw [read_cons, read_cons]
          simp only [hac]
          split <;> rfl
      · rename_i h1 h2
        rw [read_cons, read_cons, ih hw]
        by_cases hbc : b = c.1
        · simp [hbc, Ne.symm h2]
        · simp [hbc]

theorem writeBytes_wf {m : Memory} {bs : List Byte} {a : Nat} (hm : m.wf) (ha : a + bs.length ≤ 4096) :
    (m.writeBytes a bs).wf := by
  induction bs generalizing m a with
  | nil => exact hm
  | cons b bs ih =>
    rw [List.length_cons] at ha
    exact ih (write_wf hm (by omega)) (by omega)

/-- Reading after a run of bytes was written: the run's byte inside it, the old byte outside. -/
theorem read_writeBytes {m : Memory} {bs : List Byte} {a : Nat} (hm : m.wf) (ha : a + bs.length ≤ 4096)
    (b : Nat) :
    (m.writeBytes a bs).read b = if a ≤ b ∧ b < a + bs.length then bs.getD (b - a) 0 else m.read b := by
  induction bs generalizing m a with
  | nil =>
    rw [if_neg (by simp only [List.length_nil]; omega)]
    rfl
  | cons c bs ih =>
    rw [List.length_cons] at ha ⊢
    rw [Memory.writeBytes, ih (write_wf hm (by omega)) (by omega), read_write hm]
    by_cases h0 : b = a
    · subst h0
      rw [if_neg (by omega), if_pos rfl, if_pos (by omega)]
      simp
    · by_cases h1 : a + 1 ≤ b ∧ b < a + 1 + bs.length
      · rw [if_pos h1, if_pos (by omega)]
        obtain ⟨k, hk⟩ : ∃ k, b - a = k + 1 := ⟨b - a - 1, by omega⟩
        rw [hk, show b - (a + 1) = k by omega]
        simp
      · rw [if_neg h1, if_neg h0, if_neg (by omega)]

/-- In canonical form, memories that read alike are equal data. -/
theorem ext_read {m n : Memory} (hm : m.wf) (hn : n.wf) (h : ∀ a, m.read a = n.read a) : m = n := by
  induction m generalizing n with
  | nil =>
    cases n with
    | nil => rfl
    | cons d n =>
      obtain ⟨-, -, hz, -⟩ := wf_cons.1 hn
      exact absurd (by simpa using (h d.1).symm) hz
  | cons c m ih =>
    obtain ⟨hlt, -, hz, hw⟩ := wf_cons.1 hm
    cases n with
    | nil => exact absurd (by simpa using h c.1) hz
    | cons d n =>
      obtain ⟨hlt', -, hz', hw'⟩ := wf_cons.1 hn
      have hcd : c.1 = d.1 := by
        rcases Nat.lt_trichotomy c.1 d.1 with hl | he | hg
        · have := h c.1
          rw [read_cons, if_pos rfl, read_below (m := d :: n)] at this
          · exact absurd this hz
          · intro e he
            rcases List.mem_cons.1 he with rfl | he
            · exact hl
            · exact Nat.lt_trans hl (hlt' e he)
        · exact he
        · have := h d.1
          rw [read_cons d n, if_pos rfl, read_below (m := c :: m)] at this
          · exact absurd this.symm hz'
          · intro e he
            rcases List.mem_cons.1 he with rfl | he
            · exact hg
            · exact Nat.lt_trans hg (hlt e he)
      have hval : c.2 = d.2 := by simpa [hcd] using h c.1
      have hrest : m = n := by
        refine ih hw hw' fun a => ?_
        have ha := h a
        rw [read_cons, read_cons, hcd] at ha
        by_cases hac : a = d.1
        · rw [hac, read_below hlt', read_below (fun e he => hcd ▸ hlt e he)]
        · simpa [hac] using ha
      rw [Prod.ext hcd hval, hrest]

end Memory

end Sys2Proof.Machine
end

