-- ==== Sys2Proof/Laws/State.lean ====
section
/-! SUPPORT. What each named update of the state does to each field, and to a register read. -/

namespace Sys2Proof.Machine.State

variable (s : State)

@[simp] theorem setReg_mem (x : Reg) (b : Byte) : (s.setReg x b).mem = s.mem := rfl
@[simp] theorem setReg_v (x : Reg) (b : Byte) : (s.setReg x b).v = s.v.set x.val b := rfl
@[simp] theorem setReg_i (x : Reg) (b : Byte) : (s.setReg x b).i = s.i := rfl
@[simp] theorem setReg_pc (x : Reg) (b : Byte) : (s.setReg x b).pc = s.pc := rfl
@[simp] theorem setReg_stack (x : Reg) (b : Byte) : (s.setReg x b).stack = s.stack := rfl
@[simp] theorem setReg_sp (x : Reg) (b : Byte) : (s.setReg x b).sp = s.sp := rfl
@[simp] theorem setReg_dt (x : Reg) (b : Byte) : (s.setReg x b).dt = s.dt := rfl
@[simp] theorem setReg_st (x : Reg) (b : Byte) : (s.setReg x b).st = s.st := rfl
@[simp] theorem setReg_fb (x : Reg) (b : Byte) : (s.setReg x b).fb = s.fb := rfl
@[simp] theorem setReg_run (x : Reg) (b : Byte) : (s.setReg x b).run = s.run := rfl
@[simp] theorem setReg_fault (x : Reg) (b : Byte) : (s.setReg x b).fault = s.fault := rfl
@[simp] theorem setReg_keyHeld (x : Reg) (b : Byte) : (s.setReg x b).keyHeld = s.keyHeld := rfl
@[simp] theorem setReg_keyEvent (x : Reg) (b : Byte) : (s.setReg x b).keyEvent = s.keyEvent := rfl
@[simp] theorem setReg_rndQueue (x : Reg) (b : Byte) : (s.setReg x b).rndQueue = s.rndQueue := rfl
@[simp] theorem setReg_rndCount (x : Reg) (b : Byte) : (s.setReg x b).rndCount = s.rndCount := rfl
@[simp] theorem setReg_emitted (x : Reg) (b : Byte) : (s.setReg x b).emitted = s.emitted := rfl
@[simp] theorem setReg_schedule (x : Reg) (b : Byte) : (s.setReg x b).schedule = s.schedule := rfl

@[simp] theorem setI_mem (w : Word) : (s.setI w).mem = s.mem := rfl
@[simp] theorem setI_v (w : Word) : (s.setI w).v = s.v := rfl
@[simp] theorem setI_i (w : Word) : (s.setI w).i = w := rfl
@[simp] theorem setI_pc (w : Word) : (s.setI w).pc = s.pc := rfl
@[simp] theorem setI_stack (w : Word) : (s.setI w).stack = s.stack := rfl
@[simp] theorem setI_sp (w : Word) : (s.setI w).sp = s.sp := rfl
@[simp] theorem setI_dt (w : Word) : (s.setI w).dt = s.dt := rfl
@[simp] theorem setI_st (w : Word) : (s.setI w).st = s.st := rfl
@[simp] theorem setI_fb (w : Word) : (s.setI w).fb = s.fb := rfl
@[simp] theorem setI_run (w : Word) : (s.setI w).run = s.run := rfl
@[simp] theorem setI_fault (w : Word) : (s.setI w).fault = s.fault := rfl
@[simp] theorem setI_keyHeld (w : Word) : (s.setI w).keyHeld = s.keyHeld := rfl
@[simp] theorem setI_keyEvent (w : Word) : (s.setI w).keyEvent = s.keyEvent := rfl
@[simp] theorem setI_rndQueue (w : Word) : (s.setI w).rndQueue = s.rndQueue := rfl
@[simp] theorem setI_rndCount (w : Word) : (s.setI w).rndCount = s.rndCount := rfl
@[simp] theorem setI_emitted (w : Word) : (s.setI w).emitted = s.emitted := rfl
@[simp] theorem setI_schedule (w : Word) : (s.setI w).schedule = s.schedule := rfl
@[simp] theorem setI_reg (w : Word) (r : Reg) : (s.setI w).reg r = s.reg r := rfl

@[simp] theorem setPc_mem (w : Word) : (s.setPc w).mem = s.mem := rfl
@[simp] theorem setPc_v (w : Word) : (s.setPc w).v = s.v := rfl
@[simp] theorem setPc_i (w : Word) : (s.setPc w).i = s.i := rfl
@[simp] theorem setPc_pc (w : Word) : (s.setPc w).pc = w := rfl
@[simp] theorem setPc_stack (w : Word) : (s.setPc w).stack = s.stack := rfl
@[simp] theorem setPc_sp (w : Word) : (s.setPc w).sp = s.sp := rfl
@[simp] theorem setPc_dt (w : Word) : (s.setPc w).dt = s.dt := rfl
@[simp] theorem setPc_st (w : Word) : (s.setPc w).st = s.st := rfl
@[simp] theorem setPc_fb (w : Word) : (s.setPc w).fb = s.fb := rfl
@[simp] theorem setPc_run (w : Word) : (s.setPc w).run = s.run := rfl
@[simp] theorem setPc_fault (w : Word) : (s.setPc w).fault = s.fault := rfl
@[simp] theorem setPc_keyHeld (w : Word) : (s.setPc w).keyHeld = s.keyHeld := rfl
@[simp] theorem setPc_keyEvent (w : Word) : (s.setPc w).keyEvent = s.keyEvent := rfl
@[simp] theorem setPc_rndQueue (w : Word) : (s.setPc w).rndQueue = s.rndQueue := rfl
@[simp] theorem setPc_rndCount (w : Word) : (s.setPc w).rndCount = s.rndCount := rfl
@[simp] theorem setPc_emitted (w : Word) : (s.setPc w).emitted = s.emitted := rfl
@[simp] theorem setPc_schedule (w : Word) : (s.setPc w).schedule = s.schedule := rfl
@[simp] theorem setPc_reg (w : Word) (r : Reg) : (s.setPc w).reg r = s.reg r := rfl

@[simp] theorem setDt_mem (b : Byte) : (s.setDt b).mem = s.mem := rfl
@[simp] theorem setDt_v (b : Byte) : (s.setDt b).v = s.v := rfl
@[simp] theorem setDt_i (b : Byte) : (s.setDt b).i = s.i := rfl
@[simp] theorem setDt_pc (b : Byte) : (s.setDt b).pc = s.pc := rfl
@[simp] theorem setDt_stack (b : Byte) : (s.setDt b).stack = s.stack := rfl
@[simp] theorem setDt_sp (b : Byte) : (s.setDt b).sp = s.sp := rfl
@[simp] theorem setDt_dt (b : Byte) : (s.setDt b).dt = b := rfl
@[simp] theorem setDt_st (b : Byte) : (s.setDt b).st = s.st := rfl
@[simp] theorem setDt_fb (b : Byte) : (s.setDt b).fb = s.fb := rfl
@[simp] theorem setDt_run (b : Byte) : (s.setDt b).run = s.run := rfl
@[simp] theorem setDt_fault (b : Byte) : (s.setDt b).fault = s.fault := rfl
@[simp] theorem setDt_keyHeld (b : Byte) : (s.setDt b).keyHeld = s.keyHeld := rfl
@[simp] theorem setDt_keyEvent (b : Byte) : (s.setDt b).keyEvent = s.keyEvent := rfl
@[simp] theorem setDt_rndQueue (b : Byte) : (s.setDt b).rndQueue = s.rndQueue := rfl
@[simp] theorem setDt_rndCount (b : Byte) : (s.setDt b).rndCount = s.rndCount := rfl
@[simp] theorem setDt_emitted (b : Byte) : (s.setDt b).emitted = s.emitted := rfl
@[simp] theorem setDt_schedule (b : Byte) : (s.setDt b).schedule = s.schedule := rfl
@[simp] theorem setDt_reg (b : Byte) (r : Reg) : (s.setDt b).reg r = s.reg r := rfl

@[simp] theorem setSt_mem (b : Byte) : (s.setSt b).mem = s.mem := rfl
@[simp] theorem setSt_v (b : Byte) : (s.setSt b).v = s.v := rfl
@[simp] theorem setSt_i (b : Byte) : (s.setSt b).i = s.i := rfl
@[simp] theorem setSt_pc (b : Byte) : (s.setSt b).pc = s.pc := rfl
@[simp] theorem setSt_stack (b : Byte) : (s.setSt b).stack = s.stack := rfl
@[simp] theorem setSt_sp (b : Byte) : (s.setSt b).sp = s.sp := rfl
@[simp] theorem setSt_dt (b : Byte) : (s.setSt b).dt = s.dt := rfl
@[simp] theorem setSt_st (b : Byte) : (s.setSt b).st = b := rfl
@[simp] theorem setSt_fb (b : Byte) : (s.setSt b).fb = s.fb := rfl
@[simp] theorem setSt_run (b : Byte) : (s.setSt b).run = s.run := rfl
@[simp] theorem setSt_fault (b : Byte) : (s.setSt b).fault = s.fault := rfl
@[simp] theorem setSt_keyHeld (b : Byte) : (s.setSt b).keyHeld = s.keyHeld := rfl
@[simp] theorem setSt_keyEvent (b : Byte) : (s.setSt b).keyEvent = s.keyEvent := rfl
@[simp] theorem setSt_rndQueue (b : Byte) : (s.setSt b).rndQueue = s.rndQueue := rfl
@[simp] theorem setSt_rndCount (b : Byte) : (s.setSt b).rndCount = s.rndCount := rfl
@[simp] theorem setSt_emitted (b : Byte) : (s.setSt b).emitted = s.emitted := rfl
@[simp] theorem setSt_schedule (b : Byte) : (s.setSt b).schedule = s.schedule := rfl
@[simp] theorem setSt_reg (b : Byte) (r : Reg) : (s.setSt b).reg r = s.reg r := rfl

@[simp] theorem setMem_mem (m : Memory) : (s.setMem m).mem = m := rfl
@[simp] theorem setMem_v (m : Memory) : (s.setMem m).v = s.v := rfl
@[simp] theorem setMem_i (m : Memory) : (s.setMem m).i = s.i := rfl
@[simp] theorem setMem_pc (m : Memory) : (s.setMem m).pc = s.pc := rfl
@[simp] theorem setMem_stack (m : Memory) : (s.setMem m).stack = s.stack := rfl
@[simp] theorem setMem_sp (m : Memory) : (s.setMem m).sp = s.sp := rfl
@[simp] theorem setMem_dt (m : Memory) : (s.setMem m).dt = s.dt := rfl
@[simp] theorem setMem_st (m : Memory) : (s.setMem m).st = s.st := rfl
@[simp] theorem setMem_fb (m : Memory) : (s.setMem m).fb = s.fb := rfl
@[simp] theorem setMem_run (m : Memory) : (s.setMem m).run = s.run := rfl
@[simp] theorem setMem_fault (m : Memory) : (s.setMem m).fault = s.fault := rfl
@[simp] theorem setMem_keyHeld (m : Memory) : (s.setMem m).keyHeld = s.keyHeld := rfl
@[simp] theorem setMem_keyEvent (m : Memory) : (s.setMem m).keyEvent = s.keyEvent := rfl
@[simp] theorem setMem_rndQueue (m : Memory) : (s.setMem m).rndQueue = s.rndQueue := rfl
@[simp] theorem setMem_rndCount (m : Memory) : (s.setMem m).rndCount = s.rndCount := rfl
@[simp] theorem setMem_emitted (m : Memory) : (s.setMem m).emitted = s.emitted := rfl
@[simp] theorem setMem_schedule (m : Memory) : (s.setMem m).schedule = s.schedule := rfl
@[simp] theorem setMem_reg (m : Memory) (r : Reg) : (s.setMem m).reg r = s.reg r := rfl

@[simp] theorem setFb_mem (d : Display) : (s.setFb d).mem = s.mem := rfl
@[simp] theorem setFb_v (d : Display) : (s.setFb d).v = s.v := rfl
@[simp] theorem setFb_i (d : Display) : (s.setFb d).i = s.i := rfl
@[simp] theorem setFb_pc (d : Display) : (s.setFb d).pc = s.pc := rfl
@[simp] theorem setFb_stack (d : Display) : (s.setFb d).stack = s.stack := rfl
@[simp] theorem setFb_sp (d : Display) : (s.setFb d).sp = s.sp := rfl
@[simp] theorem setFb_dt (d : Display) : (s.setFb d).dt = s.dt := rfl
@[simp] theorem setFb_st (d : Display) : (s.setFb d).st = s.st := rfl
@[simp] theorem setFb_fb (d : Display) : (s.setFb d).fb = d := rfl
@[simp] theorem setFb_run (d : Display) : (s.setFb d).run = s.run := rfl
@[simp] theorem setFb_fault (d : Display) : (s.setFb d).fault = s.fault := rfl
@[simp] theorem setFb_keyHeld (d : Display) : (s.setFb d).keyHeld = s.keyHeld := rfl
@[simp] theorem setFb_keyEvent (d : Display) : (s.setFb d).keyEvent = s.keyEvent := rfl
@[simp] theorem setFb_rndQueue (d : Display) : (s.setFb d).rndQueue = s.rndQueue := rfl
@[simp] theorem setFb_rndCount (d : Display) : (s.setFb d).rndCount = s.rndCount := rfl
@[simp] theorem setFb_emitted (d : Display) : (s.setFb d).emitted = s.emitted := rfl
@[simp] theorem setFb_schedule (d : Display) : (s.setFb d).schedule = s.schedule := rfl
@[simp] theorem setFb_reg (d : Display) (r : Reg) : (s.setFb d).reg r = s.reg r := rfl

@[simp] theorem setKeyEvent_mem (e : Option Key) : (s.setKeyEvent e).mem = s.mem := rfl
@[simp] theorem setKeyEvent_v (e : Option Key) : (s.setKeyEvent e).v = s.v := rfl
@[simp] theorem setKeyEvent_i (e : Option Key) : (s.setKeyEvent e).i = s.i := rfl
@[simp] theorem setKeyEvent_pc (e : Option Key) : (s.setKeyEvent e).pc = s.pc := rfl
@[simp] theorem setKeyEvent_stack (e : Option Key) : (s.setKeyEvent e).stack = s.stack := rfl
@[simp] theorem setKeyEvent_sp (e : Option Key) : (s.setKeyEvent e).sp = s.sp := rfl
@[simp] theorem setKeyEvent_dt (e : Option Key) : (s.setKeyEvent e).dt = s.dt := rfl
@[simp] theorem setKeyEvent_st (e : Option Key) : (s.setKeyEvent e).st = s.st := rfl
@[simp] theorem setKeyEvent_fb (e : Option Key) : (s.setKeyEvent e).fb = s.fb := rfl
@[simp] theorem setKeyEvent_run (e : Option Key) : (s.setKeyEvent e).run = s.run := rfl
@[simp] theorem setKeyEvent_fault (e : Option Key) : (s.setKeyEvent e).fault = s.fault := rfl
@[simp] theorem setKeyEvent_keyHeld (e : Option Key) : (s.setKeyEvent e).keyHeld = s.keyHeld := rfl
@[simp] theorem setKeyEvent_keyEvent (e : Option Key) : (s.setKeyEvent e).keyEvent = e := rfl
@[simp] theorem setKeyEvent_rndQueue (e : Option Key) : (s.setKeyEvent e).rndQueue = s.rndQueue := rfl
@[simp] theorem setKeyEvent_rndCount (e : Option Key) : (s.setKeyEvent e).rndCount = s.rndCount := rfl
@[simp] theorem setKeyEvent_emitted (e : Option Key) : (s.setKeyEvent e).emitted = s.emitted := rfl
@[simp] theorem setKeyEvent_schedule (e : Option Key) : (s.setKeyEvent e).schedule = s.schedule := rfl
@[simp] theorem setKeyEvent_reg (e : Option Key) (r : Reg) : (s.setKeyEvent e).reg r = s.reg r := rfl

@[simp] theorem emit_mem (o : Output) : (s.emit o).mem = s.mem := rfl
@[simp] theorem emit_v (o : Output) : (s.emit o).v = s.v := rfl
@[simp] theorem emit_i (o : Output) : (s.emit o).i = s.i := rfl
@[simp] theorem emit_pc (o : Output) : (s.emit o).pc = s.pc := rfl
@[simp] theorem emit_stack (o : Output) : (s.emit o).stack = s.stack := rfl
@[simp] theorem emit_sp (o : Output) : (s.emit o).sp = s.sp := rfl
@[simp] theorem emit_dt (o : Output) : (s.emit o).dt = s.dt := rfl
@[simp] theorem emit_st (o : Output) : (s.emit o).st = s.st := rfl
@[simp] theorem emit_fb (o : Output) : (s.emit o).fb = s.fb := rfl
@[simp] theorem emit_run (o : Output) : (s.emit o).run = s.run := rfl
@[simp] theorem emit_fault (o : Output) : (s.emit o).fault = s.fault := rfl
@[simp] theorem emit_keyHeld (o : Output) : (s.emit o).keyHeld = s.keyHeld := rfl
@[simp] theorem emit_keyEvent (o : Output) : (s.emit o).keyEvent = s.keyEvent := rfl
@[simp] theorem emit_rndQueue (o : Output) : (s.emit o).rndQueue = s.rndQueue := rfl
@[simp] theorem emit_rndCount (o : Output) : (s.emit o).rndCount = s.rndCount := rfl
@[simp] theorem emit_emitted (o : Output) : (s.emit o).emitted = o :: s.emitted := rfl
@[simp] theorem emit_schedule (o : Output) : (s.emit o).schedule = s.schedule := rfl
@[simp] theorem emit_reg (o : Output) (r : Reg) : (s.emit o).reg r = s.reg r := rfl

@[simp] theorem advance_mem : s.advance.mem = s.mem := rfl
@[simp] theorem advance_v : s.advance.v = s.v := rfl
@[simp] theorem advance_i : s.advance.i = s.i := rfl
@[simp] theorem advance_pc : s.advance.pc = s.pc + 2 := rfl
@[simp] theorem advance_stack : s.advance.stack = s.stack := rfl
@[simp] theorem advance_sp : s.advance.sp = s.sp := rfl
@[simp] theorem advance_dt : s.advance.dt = s.dt := rfl
@[simp] theorem advance_st : s.advance.st = s.st := rfl
@[simp] theorem advance_fb : s.advance.fb = s.fb := rfl
@[simp] theorem advance_run : s.advance.run = s.run := rfl
@[simp] theorem advance_fault : s.advance.fault = s.fault := rfl
@[simp] theorem advance_keyHeld : s.advance.keyHeld = s.keyHeld := rfl
@[simp] theorem advance_keyEvent : s.advance.keyEvent = s.keyEvent := rfl
@[simp] theorem advance_rndQueue : s.advance.rndQueue = s.rndQueue := rfl
@[simp] theorem advance_rndCount : s.advance.rndCount = s.rndCount := rfl
@[simp] theorem advance_emitted : s.advance.emitted = s.emitted := rfl
@[simp] theorem advance_schedule : s.advance.schedule = s.schedule := rfl
@[simp] theorem advance_reg (r : Reg) : s.advance.reg r = s.reg r := rfl

@[simp] theorem setFlag_mem (f : Bool) : (s.setFlag f).mem = s.mem := rfl
@[simp] theorem setFlag_i (f : Bool) : (s.setFlag f).i = s.i := rfl
@[simp] theorem setFlag_pc (f : Bool) : (s.setFlag f).pc = s.pc := rfl
@[simp] theorem setFlag_stack (f : Bool) : (s.setFlag f).stack = s.stack := rfl
@[simp] theorem setFlag_sp (f : Bool) : (s.setFlag f).sp = s.sp := rfl
@[simp] theorem setFlag_dt (f : Bool) : (s.setFlag f).dt = s.dt := rfl
@[simp] theorem setFlag_st (f : Bool) : (s.setFlag f).st = s.st := rfl
@[simp] theorem setFlag_fb (f : Bool) : (s.setFlag f).fb = s.fb := rfl
@[simp] theorem setFlag_run (f : Bool) : (s.setFlag f).run = s.run := rfl
@[simp] theorem setFlag_fault (f : Bool) : (s.setFlag f).fault = s.fault := rfl
@[simp] theorem setFlag_keyHeld (f : Bool) : (s.setFlag f).keyHeld = s.keyHeld := rfl
@[simp] theorem setFlag_keyEvent (f : Bool) : (s.setFlag f).keyEvent = s.keyEvent := rfl
@[simp] theorem setFlag_rndQueue (f : Bool) : (s.setFlag f).rndQueue = s.rndQueue := rfl
@[simp] theorem setFlag_rndCount (f : Bool) : (s.setFlag f).rndCount = s.rndCount := rfl
@[simp] theorem setFlag_emitted (f : Bool) : (s.setFlag f).emitted = s.emitted := rfl
@[simp] theorem setFlag_schedule (f : Bool) : (s.setFlag f).schedule = s.schedule := rfl

@[simp] theorem writeFlagged_mem (x : Reg) (r : Flagged) : (s.writeFlagged x r).mem = s.mem := rfl
@[simp] theorem writeFlagged_i (x : Reg) (r : Flagged) : (s.writeFlagged x r).i = s.i := rfl
@[simp] theorem writeFlagged_pc (x : Reg) (r : Flagged) : (s.writeFlagged x r).pc = s.pc := rfl
@[simp] theorem writeFlagged_stack (x : Reg) (r : Flagged) : (s.writeFlagged x r).stack = s.stack := rfl
@[simp] theorem writeFlagged_sp (x : Reg) (r : Flagged) : (s.writeFlagged x r).sp = s.sp := rfl
@[simp] theorem writeFlagged_dt (x : Reg) (r : Flagged) : (s.writeFlagged x r).dt = s.dt := rfl
@[simp] theorem writeFlagged_st (x : Reg) (r : Flagged) : (s.writeFlagged x r).st = s.st := rfl
@[simp] theorem writeFlagged_fb (x : Reg) (r : Flagged) : (s.writeFlagged x r).fb = s.fb := rfl
@[simp] theorem writeFlagged_run (x : Reg) (r : Flagged) : (s.writeFlagged x r).run = s.run := rfl
@[simp] theorem writeFlagged_fault (x : Reg) (r : Flagged) : (s.writeFlagged x r).fault = s.fault := rfl
@[simp] theorem writeFlagged_keyHeld (x : Reg) (r : Flagged) : (s.writeFlagged x r).keyHeld = s.keyHeld := rfl
@[simp] theorem writeFlagged_keyEvent (x : Reg) (r : Flagged) : (s.writeFlagged x r).keyEvent = s.keyEvent := rfl
@[simp] theorem writeFlagged_rndQueue (x : Reg) (r : Flagged) : (s.writeFlagged x r).rndQueue = s.rndQueue := rfl
@[simp] theorem writeFlagged_rndCount (x : Reg) (r : Flagged) : (s.writeFlagged x r).rndCount = s.rndCount := rfl
@[simp] theorem writeFlagged_emitted (x : Reg) (r : Flagged) : (s.writeFlagged x r).emitted = s.emitted := rfl
@[simp] theorem writeFlagged_schedule (x : Reg) (r : Flagged) : (s.writeFlagged x r).schedule = s.schedule := rfl

@[simp] theorem loadRegs_mem (x : Reg) (a : Nat) : (s.loadRegs x a).mem = s.mem := rfl
@[simp] theorem loadRegs_i (x : Reg) (a : Nat) : (s.loadRegs x a).i = s.i := rfl
@[simp] theorem loadRegs_pc (x : Reg) (a : Nat) : (s.loadRegs x a).pc = s.pc := rfl
@[simp] theorem loadRegs_stack (x : Reg) (a : Nat) : (s.loadRegs x a).stack = s.stack := rfl
@[simp] theorem loadRegs_sp (x : Reg) (a : Nat) : (s.loadRegs x a).sp = s.sp := rfl
@[simp] theorem loadRegs_dt (x : Reg) (a : Nat) : (s.loadRegs x a).dt = s.dt := rfl
@[simp] theorem loadRegs_st (x : Reg) (a : Nat) : (s.loadRegs x a).st = s.st := rfl
@[simp] theorem loadRegs_fb (x : Reg) (a : Nat) : (s.loadRegs x a).fb = s.fb := rfl
@[simp] theorem loadRegs_run (x : Reg) (a : Nat) : (s.loadRegs x a).run = s.run := rfl
@[simp] theorem loadRegs_fault (x : Reg) (a : Nat) : (s.loadRegs x a).fault = s.fault := rfl
@[simp] theorem loadRegs_keyHeld (x : Reg) (a : Nat) : (s.loadRegs x a).keyHeld = s.keyHeld := rfl
@[simp] theorem loadRegs_keyEvent (x : Reg) (a : Nat) : (s.loadRegs x a).keyEvent = s.keyEvent := rfl
@[simp] theorem loadRegs_rndQueue (x : Reg) (a : Nat) : (s.loadRegs x a).rndQueue = s.rndQueue := rfl
@[simp] theorem loadRegs_rndCount (x : Reg) (a : Nat) : (s.loadRegs x a).rndCount = s.rndCount := rfl
@[simp] theorem loadRegs_emitted (x : Reg) (a : Nat) : (s.loadRegs x a).emitted = s.emitted := rfl
@[simp] theorem loadRegs_schedule (x : Reg) (a : Nat) : (s.loadRegs x a).schedule = s.schedule := rfl

@[simp] theorem setKey_mem (k : Key) (b : Bool) : (s.setKey k b).mem = s.mem := rfl
@[simp] theorem setKey_v (k : Key) (b : Bool) : (s.setKey k b).v = s.v := rfl
@[simp] theorem setKey_i (k : Key) (b : Bool) : (s.setKey k b).i = s.i := rfl
@[simp] theorem setKey_pc (k : Key) (b : Bool) : (s.setKey k b).pc = s.pc := rfl
@[simp] theorem setKey_stack (k : Key) (b : Bool) : (s.setKey k b).stack = s.stack := rfl
@[simp] theorem setKey_sp (k : Key) (b : Bool) : (s.setKey k b).sp = s.sp := rfl
@[simp] theorem setKey_dt (k : Key) (b : Bool) : (s.setKey k b).dt = s.dt := rfl
@[simp] theorem setKey_st (k : Key) (b : Bool) : (s.setKey k b).st = s.st := rfl
@[simp] theorem setKey_fb (k : Key) (b : Bool) : (s.setKey k b).fb = s.fb := rfl
@[simp] theorem setKey_run (k : Key) (b : Bool) : (s.setKey k b).run = s.run := rfl
@[simp] theorem setKey_fault (k : Key) (b : Bool) : (s.setKey k b).fault = s.fault := rfl
@[simp] theorem setKey_keyHeld (k : Key) (b : Bool) : (s.setKey k b).keyHeld = s.keyHeld.set k.val b := rfl
@[simp] theorem setKey_keyEvent (k : Key) (b : Bool) : (s.setKey k b).keyEvent = s.keyEvent := rfl
@[simp] theorem setKey_rndQueue (k : Key) (b : Bool) : (s.setKey k b).rndQueue = s.rndQueue := rfl
@[simp] theorem setKey_rndCount (k : Key) (b : Bool) : (s.setKey k b).rndCount = s.rndCount := rfl
@[simp] theorem setKey_emitted (k : Key) (b : Bool) : (s.setKey k b).emitted = s.emitted := rfl
@[simp] theorem setKey_schedule (k : Key) (b : Bool) : (s.setKey k b).schedule = s.schedule := rfl
@[simp] theorem setKey_reg (k : Key) (b : Bool) (r : Reg) : (s.setKey k b).reg r = s.reg r := rfl

@[simp] theorem supplyRandom_mem (b : Byte) : (s.supplyRandom b).mem = s.mem := rfl
@[simp] theorem supplyRandom_v (b : Byte) : (s.supplyRandom b).v = s.v := rfl
@[simp] theorem supplyRandom_i (b : Byte) : (s.supplyRandom b).i = s.i := rfl
@[simp] theorem supplyRandom_pc (b : Byte) : (s.supplyRandom b).pc = s.pc := rfl
@[simp] theorem supplyRandom_stack (b : Byte) : (s.supplyRandom b).stack = s.stack := rfl
@[simp] theorem supplyRandom_sp (b : Byte) : (s.supplyRandom b).sp = s.sp := rfl
@[simp] theorem supplyRandom_dt (b : Byte) : (s.supplyRandom b).dt = s.dt := rfl
@[simp] theorem supplyRandom_st (b : Byte) : (s.supplyRandom b).st = s.st := rfl
@[simp] theorem supplyRandom_fb (b : Byte) : (s.supplyRandom b).fb = s.fb := rfl
@[simp] theorem supplyRandom_run (b : Byte) : (s.supplyRandom b).run = s.run := rfl
@[simp] theorem supplyRandom_fault (b : Byte) : (s.supplyRandom b).fault = s.fault := rfl
@[simp] theorem supplyRandom_keyHeld (b : Byte) : (s.supplyRandom b).keyHeld = s.keyHeld := rfl
@[simp] theorem supplyRandom_keyEvent (b : Byte) : (s.supplyRandom b).keyEvent = s.keyEvent := rfl
@[simp] theorem supplyRandom_rndQueue (b : Byte) : (s.supplyRandom b).rndQueue = s.rndQueue ++ [b] := rfl
@[simp] theorem supplyRandom_rndCount (b : Byte) : (s.supplyRandom b).rndCount = s.rndCount := rfl
@[simp] theorem supplyRandom_emitted (b : Byte) : (s.supplyRandom b).emitted = s.emitted := rfl
@[simp] theorem supplyRandom_schedule (b : Byte) : (s.supplyRandom b).schedule = s.schedule := rfl
@[simp] theorem supplyRandom_reg (b : Byte) (r : Reg) : (s.supplyRandom b).reg r = s.reg r := rfl

@[simp] theorem tick_mem : s.tick.mem = s.mem := rfl
@[simp] theorem tick_v : s.tick.v = s.v := rfl
@[simp] theorem tick_i : s.tick.i = s.i := rfl
@[simp] theorem tick_pc : s.tick.pc = s.pc := rfl
@[simp] theorem tick_stack : s.tick.stack = s.stack := rfl
@[simp] theorem tick_sp : s.tick.sp = s.sp := rfl
@[simp] theorem tick_dt : s.tick.dt = decrementIfPositive s.dt := rfl
@[simp] theorem tick_st : s.tick.st = decrementIfPositive s.st := rfl
@[simp] theorem tick_fb : s.tick.fb = s.fb := rfl
@[simp] theorem tick_run : s.tick.run = s.run := rfl
@[simp] theorem tick_fault : s.tick.fault = s.fault := rfl
@[simp] theorem tick_keyHeld : s.tick.keyHeld = s.keyHeld := rfl
@[simp] theorem tick_keyEvent : s.tick.keyEvent = s.keyEvent := rfl
@[simp] theorem tick_rndQueue : s.tick.rndQueue = s.rndQueue := rfl
@[simp] theorem tick_rndCount : s.tick.rndCount = s.rndCount := rfl
@[simp] theorem tick_emitted : s.tick.emitted = if s.st = 0 then s.emitted else .audioTick :: s.emitted := rfl
@[simp] theorem tick_schedule : s.tick.schedule = s.schedule := rfl
@[simp] theorem tick_reg (r : Reg) : s.tick.reg r = s.reg r := rfl

@[simp] theorem dropMove_mem : s.dropMove.mem = s.mem := rfl
@[simp] theorem dropMove_v : s.dropMove.v = s.v := rfl
@[simp] theorem dropMove_i : s.dropMove.i = s.i := rfl
@[simp] theorem dropMove_pc : s.dropMove.pc = s.pc := rfl
@[simp] theorem dropMove_stack : s.dropMove.stack = s.stack := rfl
@[simp] theorem dropMove_sp : s.dropMove.sp = s.sp := rfl
@[simp] theorem dropMove_dt : s.dropMove.dt = s.dt := rfl
@[simp] theorem dropMove_st : s.dropMove.st = s.st := rfl
@[simp] theorem dropMove_fb : s.dropMove.fb = s.fb := rfl
@[simp] theorem dropMove_run : s.dropMove.run = s.run := rfl
@[simp] theorem dropMove_fault : s.dropMove.fault = s.fault := rfl
@[simp] theorem dropMove_keyHeld : s.dropMove.keyHeld = s.keyHeld := rfl
@[simp] theorem dropMove_keyEvent : s.dropMove.keyEvent = s.keyEvent := rfl
@[simp] theorem dropMove_rndQueue : s.dropMove.rndQueue = s.rndQueue := rfl
@[simp] theorem dropMove_rndCount : s.dropMove.rndCount = s.rndCount := rfl
@[simp] theorem dropMove_emitted : s.dropMove.emitted = s.emitted := rfl
@[simp] theorem dropMove_schedule : s.dropMove.schedule = s.schedule.tail := rfl
@[simp] theorem dropMove_reg (r : Reg) : s.dropMove.reg r = s.reg r := rfl

end Sys2Proof.Machine.State
end

