-- ==== Sys2Proof/Laws/Ops.lean ====
section
/-! SUPPORT. One lemma per shared operation: everything it can do. -/

namespace Sys2Proof.Machine

/-- Two register files are equal when every register reads alike. -/
theorem State.v_ext {v w : Vector Byte Config.nRegs} (h : ∀ r : Reg, v[r.val] = w[r.val]) : v = w :=
  Vector.ext fun k hk => h ⟨k, hk⟩

@[simp] theorem State.reg_setReg (s : State) (x r : Reg) (b : Byte) :
    (s.setReg x b).reg r = if r = x then b else s.reg r := by
  simp only [State.reg, State.setReg, Vector.getElem_set, Fin.ext_iff]
  simp only [eq_comm]

@[simp] theorem State.reg_setFlag (s : State) (r : Reg) (f : Bool) :
    (s.setFlag f).reg r = if r = Config.flagReg then (if f then 1 else 0) else s.reg r :=
  State.reg_setReg ..

/-- The flag is written last: it is what `VF` holds, whatever the destination. -/
@[simp] theorem State.reg_writeFlagged (s : State) (x r : Reg) (f : Flagged) :
    (s.writeFlagged x f).reg r =
      if r = Config.flagReg then (if f.flag then 1 else 0) else if r = x then f.result else s.reg r := by
  rw [State.writeFlagged, State.reg_setFlag, State.reg_setReg]

@[simp] theorem State.reg_loadRegs (s : State) (x r : Reg) (a : Nat) :
    (s.loadRegs x a).reg r = if r ≤ x then s.mem.read (a + r.val) else s.reg r := by
  simp only [State.reg, State.loadRegs, Vector.getElem_ofFn, Fin.le_def]

@[simp] theorem State.skipIf_true (s : State) : s.skipIf true = s.advance := rfl

@[simp] theorem State.skipIf_false (s : State) : s.skipIf false = s := rfl

/-- A skip changes `pc` and nothing else. -/
theorem State.skipIf_eq (s : State) (c : Bool) : s.skipIf c = s.setPc (if c then s.pc + 2 else s.pc) := by
  cases c <;> rfl

theorem toNat_zextAddr (nnn : Addr12) : (zextAddr nnn).toNat = nnn.toNat := by
  have := nnn.isLt
  rw [zextAddr, BitVec.toNat_setWidth]
  omega

theorem toNat_glyphAddr (d : Fin 16) : (glyphAddr d).toNat = 5 * d.val := by
  have := d.isLt
  simp only [glyphAddr, Config.fontBase, Config.glyphBytes, BitVec.toNat_ofNat]
  omega

/-- The check passes exactly when every byte of the run is inside memory, or there is none. -/
theorem checkRun_eq_none {base len : Nat} : checkRun base len = none ↔ len = 0 ∨ base + len ≤ 4096 := by
  simp only [checkRun, Config.memSize]
  split <;> simp <;> omega

/-- When it fails it names the lowest address outside memory. -/
theorem checkRun_eq_some {base len : Nat} {f : Fault} :
    checkRun base len = some f ↔
      len ≠ 0 ∧ 4096 < base + len ∧ f = .memoryOutOfBounds (max base 4096) := by
  simp only [checkRun, Config.memSize]
  split <;> simp <;> grind

/-- A push has room exactly below the capacity. -/
theorem State.push?_eq_none {s : State} {w : Word} : s.push? w = none ↔ s.sp.val = 1024 := by
  have hs : s.sp.val < 1025 := s.sp.isLt
  unfold State.push?
  split
  · rename_i h
    simpa using Nat.ne_of_lt h
  · rename_i h
    simpa using Nat.le_antisymm (Nat.le_of_lt_succ hs) (Nat.le_of_not_lt h)

/-- A pop has an entry exactly above zero. -/
theorem State.pop?_eq_none {s : State} : s.pop? = none ↔ s.sp.val = 0 := by
  unfold State.pop?
  split <;> simp only [reduceCtorEq, false_iff, true_iff, Config.stackDepth] at * <;> omega

/-- What a successful push does. -/
theorem State.push?_eq_some {s t : State} {w : Word} (h : s.push? w = some t) :
    ∃ hs : s.sp.val < 1024, ∃ ht : s.sp.val + 1 < 1024 + 1,
      t = { s with stack := s.stack.set s.sp.val w hs, sp := ⟨s.sp.val + 1, ht⟩ } := by
  unfold State.push? at h
  split at h
  · rename_i hs
    exact ⟨hs, Nat.succ_lt_succ hs, by simpa using h.symm⟩
  · cases h

/-- What a successful pop does. -/
theorem State.pop?_eq_some {s t : State} {w : Word} (h : s.pop? = some (w, t)) :
    ∃ hk : s.sp.val - 1 < 1024, ∃ ht : s.sp.val - 1 < 1024 + 1,
      0 < s.sp.val ∧ w = s.stack[s.sp.val - 1] ∧ t = { s with sp := ⟨s.sp.val - 1, ht⟩ } := by
  have : s.sp.val < 1025 := s.sp.isLt
  unfold State.pop? at h
  split at h
  · rename_i hs
    have h' := Option.some.inj h
    exact ⟨by omega, by omega, hs, (congrArg Prod.fst h').symm, (congrArg Prod.snd h').symm⟩
  · cases h

/-- A draw takes the host's oldest byte, or the free value of the draw's number; it touches nothing else. -/
theorem State.drawRandom_eq (s : State) :
    s.drawRandom =
      (s.rndQueue.head?.getD (Config.freeRandom s.rndCount),
        { s with rndQueue := s.rndQueue.tail, rndCount := s.rndCount + 1 }) := by
  unfold State.drawRandom
  split <;> simp_all

/-- A timer counts down to 0 and stays there. -/
theorem toNat_decrementIfPositive (b : Byte) : (decrementIfPositive b).toNat = b.toNat - 1 := by
  have hb := Byte.toNat_lt b
  unfold decrementIfPositive
  split
  · rename_i h
    rw [h]
    rfl
  · rename_i h
    have h0 : b.toNat ≠ 0 := fun h' => h (BitVec.eq_of_toNat_eq h')
    rw [BitVec.toNat_sub]
    show (2 ^ 8 - 1 + b.toNat) % 2 ^ 8 = b.toNat - 1
    omega

/-- A raised fault is latched, and the machine halted; all else is as it was. -/
theorem State.raise_next {s t : State} {f : Fault} (h : s.raise f = .next t) :
    t = { s with run := .halted, fault := some f } := by
  cases h
  rfl

end Sys2Proof.Machine
end

