-- ==== Sys2Proof/Laws/Exec.lean ====
section
/-! SUPPORT. What the meanings share: the stored run, the latch, the key event, the canonical form of memory. -/

namespace Sys2Proof.Machine

theorem length_bcdDigits (b : Byte) : (bcdDigits b).length = 3 := rfl

theorem State.length_regsUpTo (s : State) (x : Reg) : (s.regsUpTo x).length = x.val + 1 := by
  have := x.isLt
  simp only [State.regsUpTo, List.length_take, Vector.length_toList]
  omega

theorem State.getD_regsUpTo (s : State) (x r : Reg) (h : r ≤ x) : (s.regsUpTo x).getD r.val 0 = s.reg r := by
  have hx := x.isLt
  have hr : r.val < x.val + 1 := Nat.lt_succ_of_le h
  rw [State.regsUpTo, List.getD_eq_getElem?_getD, List.getElem?_take_of_lt hr]
  simp [State.reg]

/-- A stored run: the fault of its check, or memory with the run written and nothing else. -/
theorem State.storeRun_cases (s : State) (bs : List Byte) :
    (∃ f, checkRun s.base bs.length = some f ∧ s.storeRun bs = s.raise f) ∨
      (checkRun s.base bs.length = none ∧ s.storeRun bs = .next (s.setMem (s.mem.writeBytes s.base bs))) := by
  unfold State.storeRun
  cases checkRun s.base bs.length <;> simp

theorem State.storeRun_wf {s t : State} {bs : List Byte} (hm : s.mem.wf) (h : s.storeRun bs = .next t) :
    t.mem.wf := by
  rcases s.storeRun_cases bs with ⟨f, -, h'⟩ | ⟨hc, h'⟩
  · rw [h] at h'
    rw [State.raise_next h'.symm]
    exact hm
  · rw [h] at h'
    cases h'
    rcases checkRun_eq_none.1 hc with h0 | hb
    · rw [List.length_eq_zero_iff.1 h0]
      exact hm
    · exact Memory.writeBytes_wf hm hb

/-- What one meaning may do to the run state, the latch, the key event and memory's form. -/
structure Orderly (s t : State) : Prop where
  latch : (t.run = s.run ∧ t.fault = s.fault) ∨ (t.run = .halted ∧ t.fault ≠ none)
  event : s.keyEvent = none → t.keyEvent = none
  mem : s.mem.wf → t.mem.wf
  schedule : t.schedule = s.schedule

theorem Orderly.of_eq {s t : State} (hr : t.run = s.run) (hf : t.fault = s.fault) (he : t.keyEvent = s.keyEvent)
    (hm : t.mem = s.mem) (hs : t.schedule = s.schedule) : Orderly s t :=
  ⟨.inl ⟨hr, hf⟩, fun h => he.trans h, fun h => hm ▸ h, hs⟩

theorem Orderly.of_raise {s t : State} {f : Fault} (h : s.raise f = .next t) : Orderly s t := by
  rw [State.raise_next h]
  exact ⟨.inr ⟨rfl, by simp⟩, id, id, rfl⟩

theorem Orderly.of_storeRun {s t : State} {bs : List Byte} (h : s.storeRun bs = .next t) : Orderly s t := by
  rcases s.storeRun_cases bs with ⟨f, -, h'⟩ | ⟨-, h'⟩
  · exact .of_raise (h'.symm.trans h)
  · have hw := fun hm => State.storeRun_wf hm h
    rw [h] at h'
    cases h'
    exact ⟨.inl ⟨rfl, rfl⟩, id, hw, rfl⟩

/-- Every meaning is orderly. -/
theorem exec_orderly {i : Instr} {s t : State} (h : exec i s = .next t) : Orderly s t := by
  cases i with
  | call nnn =>
    simp only [exec, execCall] at h
    split at h
    · rename_i u hp
      obtain ⟨_, _, rfl⟩ := State.push?_eq_some hp
      cases h
      exact .of_eq (by simp) (by simp) (by simp) (by simp) (by simp)
    · exact .of_raise h
  | ret =>
    simp only [exec, execRet] at h
    split at h
    · rename_i w u hp
      obtain ⟨_, _, _, _, rfl⟩ := State.pop?_eq_some hp
      cases h
      exact .of_eq (by simp) (by simp) (by simp) (by simp) (by simp)
    · exact .of_raise h
  | seImm x nn | sneImm x nn | seReg x y | sneReg x y | skp x | sknp x =>
    cases h
    rw [State.skipIf_eq]
    exact .of_eq (by simp) (by simp) (by simp) (by simp) (by simp)
  | rnd x nn =>
    cases h
    rw [State.drawRandom_eq]
    exact .of_eq (by simp) (by simp) (by simp) (by simp) (by simp)
  | drw x y n =>
    simp only [exec, execDrw] at h
    split at h
    · exact .of_raise h
    · cases h
      exact .of_eq (by simp) (by simp) (by simp) (by simp) (by simp)
  | ldVxK x =>
    simp only [exec, execLdVxK] at h
    split at h <;> cases h
    · exact ⟨.inl ⟨rfl, rfl⟩, fun _ => rfl, id, rfl⟩
    · exact .of_eq (by simp) (by simp) (by simp) (by simp) (by simp)
  | ldB x | dump x => exact .of_storeRun h
  | load x =>
    simp only [exec, execLoad] at h
    split at h
    · exact .of_raise h
    · cases h
      exact .of_eq (by simp) (by simp) (by simp) (by simp) (by simp)
  | cls | jp nnn | jpV0 nnn | ldImm x nn | addImm x nn | ldReg x y | orReg x y | andReg x y | xorReg x y
  | addReg x y | subReg x y | subn x y | shr x | shl x | ldI nnn | ldVxDt x | ldDtVx x | ldStVx x | addI x
  | ldF x =>
    cases h
    exact .of_eq (by simp) (by simp) (by simp) (by simp) (by simp)

end Sys2Proof.Machine
end

