-- ==== Sys2Proof/Laws/PerInstr.lean ====
section
/-! SUPPORT. A law made per instruction, on its syntax alone: its word stands on its own row of the opcode table. -/

namespace Sys2Proof

/-- The class nibble and the low `k` bits of a word, as every mask of the opcode table selects them. -/
theorem toNat_and_mask (w : Word) {k : Nat} (hk : k ≤ 12) {m : Word} (hm : m.toNat = 15 <<< 12 ||| (2 ^ k - 1)) :
    (w &&& m).toNat = w.toNat / 0x1000 * 0x1000 + w.toNat % 2 ^ k := by
  have hw := w.isLt
  have hlow : w.toNat % 2 ^ k < 2 ^ 12 := Nat.lt_of_lt_of_le (Nat.mod_lt _ (by positivity)) (Nat.pow_le_pow_right (by decide) hk)
  have hclass : w.toNat &&& 15 <<< 12 = (w.toNat / 0x1000) <<< 12 := by
    apply Nat.eq_of_testBit_eq
    intro j
    have h15 : (15 : Nat) = 2 ^ 4 - 1 := rfl
    rw [show (0x1000 : Nat) = 2 ^ 12 from rfl, ← Nat.shiftRight_eq_div_pow]
    simp only [Nat.testBit_and, Nat.testBit_shiftLeft, Nat.testBit_shiftRight, h15, Nat.testBit_two_pow_sub_one]
    by_cases hj : 12 ≤ j
    · by_cases hj4 : j - 12 < 4
      · simp [hj, hj4, show 12 + (j - 12) = j by omega]
      · have : w.toNat.testBit j = false :=
          Nat.testBit_lt_two_pow (Nat.lt_of_lt_of_le hw (Nat.pow_le_pow_right (by decide) (by omega)))
        simp [hj, this, show 12 + (j - 12) = j by omega]
    · simp [hj]
  rw [BitVec.toNat_and, hm, Nat.and_or_distrib_left, hclass, Nat.and_two_pow_sub_one_eq_mod,
    ← Nat.shiftLeft_add_eq_or_of_lt hlow, Nat.shiftLeft_eq]

/-- A word of class `c` under a mask of the class alone. -/
theorem mask_class {w : Word} {c : Nat} (h : slice w 15 12 = c) : w &&& 0xF000#16 = BitVec.ofNat 16 (c * 0x1000) := by
  have := w.isLt
  rw [slice_class] at h
  apply BitVec.eq_of_toNat_eq
  rw [toNat_and_mask w (k := 0) (by decide) rfl, h, BitVec.toNat_ofNat]
  omega

/-- A word of class `c` with low nibble `n` under a mask of both. -/
theorem mask_nibble {w : Word} {c n : Nat} (h : slice w 15 12 = c) (hn : fieldN w = n) :
    w &&& 0xF00F#16 = BitVec.ofNat 16 (c * 0x1000 + n) := by
  have := w.isLt
  rw [slice_class] at h
  rw [fieldN_eq] at hn
  apply BitVec.eq_of_toNat_eq
  rw [toNat_and_mask w (k := 4) (by decide) rfl, h, BitVec.toNat_ofNat]
  omega

/-- A word of class `c` with low byte `n` under a mask of both. -/
theorem mask_byte {w : Word} {c n : Nat} (h : slice w 15 12 = c) (hn : slice w 7 0 = n) :
    w &&& 0xF0FF#16 = BitVec.ofNat 16 (c * 0x1000 + n) := by
  have := w.isLt
  rw [slice_class] at h
  rw [slice_low] at hn
  apply BitVec.eq_of_toNat_eq
  rw [toNat_and_mask w (k := 8) (by decide) rfl, h, BitVec.toNat_ofNat]
  omega

end Sys2Proof

namespace Sys2Proof.Laws.WordOnItsRow

/-- The word of a well-formed instruction has the fixed bits of its row of spec/30_encoding.md R99. -/
def Statement (i : Instr) : Prop := i.wellFormed = true → encode i &&& (rowOf i).1 = (rowOf i).2

theorem cls : Statement .cls := fun _ => rfl
theorem ret : Statement .ret := fun _ => rfl
theorem jp (nnn : Addr12) : Statement (.jp nnn) := fun _ => mask_class (class_wordNNN (by decide) nnn)
theorem call (nnn : Addr12) : Statement (.call nnn) := fun _ => mask_class (class_wordNNN (by decide) nnn)
theorem seImm (x : Reg) (nn : Byte) : Statement (.seImm x nn) := fun _ => mask_class (class_wordXNN (by decide) x nn.isLt)
theorem sneImm (x : Reg) (nn : Byte) : Statement (.sneImm x nn) := fun _ => mask_class (class_wordXNN (by decide) x nn.isLt)
theorem seReg (x y : Reg) : Statement (.seReg x y) := fun _ =>
  mask_nibble (class_wordXYN (by decide) x y (by decide)) (fieldN_wordXYN (by decide) x y (by decide))
theorem ldImm (x : Reg) (nn : Byte) : Statement (.ldImm x nn) := fun _ => mask_class (class_wordXNN (by decide) x nn.isLt)
theorem addImm (x : Reg) (nn : Byte) : Statement (.addImm x nn) := fun _ => mask_class (class_wordXNN (by decide) x nn.isLt)
theorem ldReg (x y : Reg) : Statement (.ldReg x y) := fun _ =>
  mask_nibble (class_wordXYN (by decide) x y (by decide)) (fieldN_wordXYN (by decide) x y (by decide))
theorem orReg (x y : Reg) : Statement (.orReg x y) := fun _ =>
  mask_nibble (class_wordXYN (by decide) x y (by decide)) (fieldN_wordXYN (by decide) x y (by decide))
theorem andReg (x y : Reg) : Statement (.andReg x y) := fun _ =>
  mask_nibble (class_wordXYN (by decide) x y (by decide)) (fieldN_wordXYN (by decide) x y (by decide))
theorem xorReg (x y : Reg) : Statement (.xorReg x y) := fun _ =>
  mask_nibble (class_wordXYN (by decide) x y (by decide)) (fieldN_wordXYN (by decide) x y (by decide))
theorem addReg (x y : Reg) : Statement (.addReg x y) := fun _ =>
  mask_nibble (class_wordXYN (by decide) x y (by decide)) (fieldN_wordXYN (by decide) x y (by decide))
theorem subReg (x y : Reg) : Statement (.subReg x y) := fun _ =>
  mask_nibble (class_wordXYN (by decide) x y (by decide)) (fieldN_wordXYN (by decide) x y (by decide))
theorem shr (x : Reg) : Statement (.shr x) := fun _ =>
  mask_nibble (class_wordXYN (by decide) x 0 (by decide)) (fieldN_wordXYN (by decide) x 0 (by decide))
theorem subn (x y : Reg) : Statement (.subn x y) := fun _ =>
  mask_nibble (class_wordXYN (by decide) x y (by decide)) (fieldN_wordXYN (by decide) x y (by decide))
theorem shl (x : Reg) : Statement (.shl x) := fun _ =>
  mask_nibble (class_wordXYN (by decide) x 0 (by decide)) (fieldN_wordXYN (by decide) x 0 (by decide))
theorem sneReg (x y : Reg) : Statement (.sneReg x y) := fun _ =>
  mask_nibble (class_wordXYN (by decide) x y (by decide)) (fieldN_wordXYN (by decide) x y (by decide))
theorem ldI (nnn : Addr12) : Statement (.ldI nnn) := fun _ => mask_class (class_wordNNN (by decide) nnn)
theorem jpV0 (nnn : Addr12) : Statement (.jpV0 nnn) := fun _ => mask_class (class_wordNNN (by decide) nnn)
theorem rnd (x : Reg) (nn : Byte) : Statement (.rnd x nn) := fun _ => mask_class (class_wordXNN (by decide) x nn.isLt)
theorem drw (x y : Reg) (n : Nat) : Statement (.drw x y n) := fun h =>
  mask_class (class_wordXYN (by decide) x y (by simpa [Instr.wellFormed] using h))
theorem skp (x : Reg) : Statement (.skp x) := fun _ =>
  mask_byte (class_wordXNN (by decide) x (by decide)) (low_wordXNN (by decide) x (by decide))
theorem sknp (x : Reg) : Statement (.sknp x) := fun _ =>
  mask_byte (class_wordXNN (by decide) x (by decide)) (low_wordXNN (by decide) x (by decide))
theorem ldVxDt (x : Reg) : Statement (.ldVxDt x) := fun _ =>
  mask_byte (class_wordXNN (by decide) x (by decide)) (low_wordXNN (by decide) x (by decide))
theorem ldVxK (x : Reg) : Statement (.ldVxK x) := fun _ =>
  mask_byte (class_wordXNN (by decide) x (by decide)) (low_wordXNN (by decide) x (by decide))
theorem ldDtVx (x : Reg) : Statement (.ldDtVx x) := fun _ =>
  mask_byte (class_wordXNN (by decide) x (by decide)) (low_wordXNN (by decide) x (by decide))
theorem ldStVx (x : Reg) : Statement (.ldStVx x) := fun _ =>
  mask_byte (class_wordXNN (by decide) x (by decide)) (low_wordXNN (by decide) x (by decide))
theorem addI (x : Reg) : Statement (.addI x) := fun _ =>
  mask_byte (class_wordXNN (by decide) x (by decide)) (low_wordXNN (by decide) x (by decide))
theorem ldF (x : Reg) : Statement (.ldF x) := fun _ =>
  mask_byte (class_wordXNN (by decide) x (by decide)) (low_wordXNN (by decide) x (by decide))
theorem ldB (x : Reg) : Statement (.ldB x) := fun _ =>
  mask_byte (class_wordXNN (by decide) x (by decide)) (low_wordXNN (by decide) x (by decide))
theorem dump (x : Reg) : Statement (.dump x) := fun _ =>
  mask_byte (class_wordXNN (by decide) x (by decide)) (low_wordXNN (by decide) x (by decide))
theorem load (x : Reg) : Statement (.load x) := fun _ =>
  mask_byte (class_wordXNN (by decide) x (by decide)) (low_wordXNN (by decide) x (by decide))

end Sys2Proof.Laws.WordOnItsRow
end

