-- ==== Sys2Proof/Laws/Step.lean ====
section
/-! SUPPORT. What one step can do, said once: the executor's step, a key press, and each move of the schedule. -/

namespace Sys2Proof.Machine

/-- A fetch inside memory gives the word of two bytes. -/
theorem State.fetch_inside {s : State} (h : s.pc.toNat + 1 < 4096) :
    s.fetch = .ok (wordOfBytes (s.mem.read s.pc.toNat) (s.mem.read (s.pc.toNat + 1))) := by
  rw [State.fetch, checkRun_eq_none.2 (.inr h)]

/-- A fetch that leaves memory faults with the lowest address outside. -/
theorem State.fetch_outside {s : State} (h : 4096 ≤ s.pc.toNat + 1) :
    s.fetch = .error (.memoryOutOfBounds (max s.pc.toNat 4096)) := by
  rw [State.fetch, checkRun_eq_some.2 ⟨by decide, Nat.lt_succ_of_le h, rfl⟩]

/-- The fetch reads memory and `pc` and nothing else. -/
theorem State.fetch_congr {s t : State} (hm : t.mem = s.mem) (hp : t.pc = s.pc) : t.fetch = s.fetch := by
  rw [State.fetch, State.fetch, hm, hp]

@[simp] theorem State.fetch_dropMove (s : State) : s.dropMove.fetch = s.fetch := State.fetch_congr rfl rfl

/-- A fetched word that decodes is executed after the advance of `pc`. -/
theorem State.instructionStep_ok {s : State} {w : Word} {i : Instr} (hf : s.fetch = .ok w)
    (hd : decode w = some i) : s.instructionStep = exec i s.advance := by
  rw [State.instructionStep, hf]
  simp only [hd]

/-- In `RUNNING` the executor's turn is an instruction step. -/
theorem State.executorStep_running {s : State} (h : s.run = .running) : s.executorStep = s.instructionStep := by
  rw [State.executorStep, h]

/-- The three ways an instruction step goes: a fetch fault, an unknown word, an instruction executed. -/
theorem State.instructionStep_cases (s : State) :
    (∃ f, s.fetch = .error f ∧ s.instructionStep = s.raise f) ∨
    (∃ w, s.fetch = .ok w ∧ decode w = none ∧ s.instructionStep = s.advance.raise (.unknownInstruction w)) ∨
    (∃ w i, s.fetch = .ok w ∧ decode w = some i ∧ s.instructionStep = exec i s.advance) := by
  rw [State.instructionStep]
  cases hf : s.fetch with
  | error f => exact .inl ⟨f, rfl, rfl⟩
  | ok w =>
    cases hd : decode w with
    | none => exact .inr (.inl ⟨w, rfl, hd, by simp only [hd]⟩)
    | some i => exact .inr (.inr ⟨w, i, rfl, hd, by simp only [hd]⟩)

/-- The executor is held exactly when it runs and its next word decodes to a key wait. -/
theorem State.waitsForKey_iff (s : State) :
    s.waitsForKey = true ↔ s.run = .running ∧ ∃ w x, s.fetch = .ok w ∧ decode w = some (.ldVxK x) := by
  unfold State.waitsForKey
  constructor
  · intro h
    split at h
    · rename_i w hr hf
      split at h
      · rename_i x hd
        exact ⟨hr, w, x, hf, hd⟩
      · cases h
    · cases h
  · rintro ⟨hr, w, x, hf, hd⟩
    simp [hr, hf, hd]

/-- The ways the executor's turn goes: an instruction step, nothing, or the end of the run in `HALTED`. -/
theorem State.executorStep_cases (s : State) :
    (s.run = .running ∧ s.executorStep = s.instructionStep) ∨
    (s.run ≠ .running ∧ s.executorStep = .next s) ∨
    (∃ f, s.run = .halted ∧ s.fault = some f ∧ s.executorStep = .fault f) := by
  rw [State.executorStep]
  cases hr : s.run with
  | running => exact .inl ⟨rfl, rfl⟩
  | boot => exact .inr (.inl ⟨by simp, rfl⟩)
  | halted =>
    cases hf : s.fault with
    | none => exact .inr (.inl ⟨by simp, rfl⟩)
    | some f => exact .inr (.inr ⟨f, rfl, rfl, rfl⟩)

/-- A key press completes a wait or is dropped. -/
theorem State.pressKey_cases (s : State) (k : Key) :
    (s.waitsForKey = true ∧ s.pressKey k = (s.setKeyEvent (some k)).executorStep) ∨
    (s.waitsForKey = false ∧ s.pressKey k = .next s) := by
  rw [State.pressKey]
  cases h : s.waitsForKey <;> simp

/-- A held executor with a key press in hand writes the key's number and goes on. -/
theorem State.pressKey_waiting {s : State} {k : Key} {w : Word} {x : Reg} (hr : s.run = .running)
    (hf : s.fetch = .ok w) (hd : decode w = some (.ldVxK x)) :
    s.pressKey k = .next ((s.advance.setReg x (BitVec.ofNat 8 k.val)).setKeyEvent none) := by
  have hw : s.waitsForKey = true := (State.waitsForKey_iff s).2 ⟨hr, w, x, hf, hd⟩
  have hf' : (s.setKeyEvent (some k)).fetch = .ok w := (State.fetch_congr rfl rfl).trans hf
  rw [State.pressKey, if_pos hw, State.executorStep_running (by simpa using hr), State.instructionStep_ok hf' hd]
  rfl

/-- An instruction step is orderly. -/
theorem State.instructionStep_orderly {s t : State} (h : s.instructionStep = .next t) : Orderly s t := by
  rcases s.instructionStep_cases with ⟨f, -, h'⟩ | ⟨w, -, -, h'⟩ | ⟨w, i, -, -, h'⟩
  · exact .of_raise (h'.symm.trans h)
  · have ho := Orderly.of_raise (h'.symm.trans h)
    exact ⟨by simpa using ho.latch, by simpa using ho.event, by simpa using ho.mem, by simpa using ho.schedule⟩
  · have ho := exec_orderly (h'.symm.trans h)
    exact ⟨by simpa using ho.latch, by simpa using ho.event, by simpa using ho.mem, by simpa using ho.schedule⟩

end Sys2Proof.Machine
end

