-- ==== Sys2Proof/Laws/Runs.lean ====
section
/-! SUPPORT. What one turn of a run can do, and that what follows any point of a run is a run. -/

namespace Sys2Proof.Machine

/-- A turn performs its move and leaves the schedule. -/
@[simp] theorem State.turn_eq_perform (s : State) (m : Move) : s.turn m = s.perform m := rfl

theorem IsRun.perform {states : Nat → State} {moves : Nat → Move} (h : IsRun states moves) (n : Nat) :
    (states n).perform (moves n) = .next (states (n + 1)) := h n

theorem IsRun.drop {states : Nat → State} {moves : Nat → Move} (h : IsRun states moves) (n : Nat) :
    IsRun (fun k => states (k + n)) (fun k => moves (k + n)) := fun k => by
  have hk := h (k + n)
  rwa [show k + n + 1 = k + 1 + n by omega] at hk

/-- A state predicate that every turn of a run keeps holds from the start of the run on. -/
theorem IsRun.always {states : Nat → State} {moves : Nat → Move} (h : IsRun states moves) {P : State → Prop}
    (h0 : P (states 0)) (hs : ∀ n t, P (states n) → (states n).perform (moves n) = .next t → P t) (n : Nat) :
    P (states n) := by
  induction n with
  | zero => exact h0
  | succ n ih => exact hs n _ ih (h.perform n)

/-- In a fair run a ticker that stays enabled ticks again and again. -/
theorem WeaklyFair.exists_tick {states : Nat → State} {moves : Nat → Move} (h : WeaklyFair states moves)
    (hr : ∀ n, (states n).run = .running) (n : Nat) : ∃ k ≥ n, moves k = .tick :=
  let ⟨k, hk, ht⟩ := (h n).1
  ⟨k, hk, ht (hr k)⟩

/-- In a fair run an executor that stays enabled executes again and again. -/
theorem WeaklyFair.exists_execute {states : Nat → State} {moves : Nat → Move} (h : WeaklyFair states moves)
    (he : ∀ n, (states n).executeEnabled) (n : Nat) : ∃ k ≥ n, moves k = .execute :=
  let ⟨k, hk, ht⟩ := (h n).2
  ⟨k, hk, ht (he k)⟩

end Sys2Proof.Machine
end

