-- ==== Sys2Proof/Tests/Slice0.lean ====
section
/-! SUPPORT. The model's own tests: well-formedness, decoding of words written out from spec/30_encoding.md R99, the
vectors of spec/95_test_vectors.md (each test's name ends in its vector's), and a witness for each statement with hypotheses. -/

namespace Sys2Proof.Tests

open Sys2Proof.Machine

/-- `S0` of spec/95_test_vectors.md section 0 but for the font bytes, which no test below reads. -/
def base : State := { State.reset with run := .running }

/-- `S0` with the word `w` at 0x200 and the executor's turn next. -/
def at200 (w : Word) : State := base.placeInstruction w

/-- One step, as the state it leads to. -/
def after (s : State) : Option State :=
  match step s with
  | .next t => some t
  | _ => none

/-- `s` with bytes in memory from `a` upwards. -/
def put (a : Nat) (bs : List Byte) (s : State) : State := s.setMem (s.mem.writeBytes a bs)

/-- `s` with the listed pixels on as well. -/
def lit (ps : List Point) (s : State) : State := s.setFb (ps.foldl Display.toggle s.fb)

/-- The points of the top left 8 by 4 corner and the bottom right pixel that are on. -/
def seen (s : State) : List (Nat × Nat) :=
  (((List.range 4).flatMap fun y => (List.range 8).map fun x => (x, y)) ++ [(62, 31), (63, 31)]).filter fun p =>
    s.fb.pixel (Fin.ofNat 64 p.1, Fin.ofNat 32 p.2)

/-! ## Well-formedness (spec/30_encoding.md R94): the one check, a term it refuses, the largest it admits -/

theorem test_drw_of_16_rows_is_ill_formed : (Instr.drw 0 0 16).wellFormed = false := by decide
theorem test_drw_of_15_rows_is_well_formed : (Instr.drw 0 0 15).wellFormed = true := by decide

/-! ## Decoding: one word per row of spec/30_encoding.md R99, written out from its format -/

theorem test_decode_cls : decode 0x00E0#16 = some .cls := by decide
theorem test_decode_ret : decode 0x00EE#16 = some .ret := by decide
theorem test_decode_jp : decode 0x1ABC#16 = some (.jp 0xABC) := by decide
theorem test_decode_call : decode 0x2ABC#16 = some (.call 0xABC) := by decide
theorem test_decode_seImm : decode 0x3A5C#16 = some (.seImm 10 0x5C) := by decide
theorem test_decode_sneImm : decode 0x4A5C#16 = some (.sneImm 10 0x5C) := by decide
theorem test_decode_seReg : decode 0x5AB0#16 = some (.seReg 10 11) := by decide
theorem test_decode_ldImm : decode 0x6005#16 = some (.ldImm 0 5) := by decide
theorem test_decode_addImm : decode 0x7FA1#16 = some (.addImm 15 0xA1) := by decide
theorem test_decode_ldReg : decode 0x8AB0#16 = some (.ldReg 10 11) := by decide
theorem test_decode_orReg : decode 0x8AB1#16 = some (.orReg 10 11) := by decide
theorem test_decode_andReg : decode 0x8AB2#16 = some (.andReg 10 11) := by decide
theorem test_decode_xorReg : decode 0x8AB3#16 = some (.xorReg 10 11) := by decide
theorem test_decode_addReg : decode 0x8AB4#16 = some (.addReg 10 11) := by decide
theorem test_decode_subReg : decode 0x8AB5#16 = some (.subReg 10 11) := by decide
theorem test_decode_shr : decode 0x8AB6#16 = some (.shr 10) := by decide
theorem test_decode_subn : decode 0x8AB7#16 = some (.subn 10 11) := by decide
theorem test_decode_shl : decode 0x8ABE#16 = some (.shl 10) := by decide
theorem test_decode_sneReg : decode 0x9AB0#16 = some (.sneReg 10 11) := by decide
theorem test_decode_ldI : decode 0xABCD#16 = some (.ldI 0xBCD) := by decide
theorem test_decode_jpV0 : decode 0xBCDE#16 = some (.jpV0 0xCDE) := by decide
theorem test_decode_rnd : decode 0xC3A5#16 = some (.rnd 3 0xA5) := by decide
theorem test_decode_drw : decode 0xD12F#16 = some (.drw 1 2 15) := by decide
theorem test_decode_skp : decode 0xE79E#16 = some (.skp 7) := by decide
theorem test_decode_sknp : decode 0xE7A1#16 = some (.sknp 7) := by decide
theorem test_decode_ldVxDt : decode 0xF407#16 = some (.ldVxDt 4) := by decide
theorem test_decode_ldVxK : decode 0xF30A#16 = some (.ldVxK 3) := by decide
theorem test_decode_ldDtVx : decode 0xF415#16 = some (.ldDtVx 4) := by decide
theorem test_decode_ldStVx : decode 0xF118#16 = some (.ldStVx 1) := by decide
theorem test_decode_addI : decode 0xFE1E#16 = some (.addI 14) := by decide
theorem test_decode_ldF : decode 0xF529#16 = some (.ldF 5) := by decide
theorem test_decode_ldB : decode 0xF633#16 = some (.ldB 6) := by decide
theorem test_decode_dump : decode 0xF255#16 = some (.dump 2) := by decide
theorem test_decode_load : decode 0xF365#16 = some (.load 3) := by decide

/-- Every word of spec/95_test_vectors.md section 9 is refused. -/
theorem test_decode_refuses_the_listed_words :
    ([0x0000, 0x00E1, 0x00EF, 0x00C1, 0x00FD, 0x00FF, 0x0123, 0x0FFF, 0x5001, 0x500F, 0x8008, 0x800D, 0x800F, 0x9001,
      0xE000, 0xE09F, 0xE0A0, 0xF000, 0xF006, 0xF030, 0xF075, 0xF085, 0xF0FF, 0xFFFF] : List Word).all
      (fun w => (decode w).isNone) = true := by decide

theorem test_decodeTableWord_reads_the_first_byte_high : decodeTableWord 16 0x8014 = some (.addReg 0 1) := by decide
theorem test_decodeBytes_needs_two_bytes : decodeBytes [0x60] = .error .truncated := by decide

/-! ## One step: arithmetic and logic (section 2), control flow (3), random and index (4) -/

theorem test_ldImm_A2 :
    (after ((at200 0x6F07#16).setReg 15 1)).map (fun t => (t.reg 15, t.pc)) = some (7, 0x202) := by decide
theorem test_addImm_A3 :
    (after ((at200 0x7005#16).setReg 0 0xFB)).map (fun t => (t.reg 0, t.reg 15, t.pc)) = some (0, 1, 0x202) := by decide
theorem test_addImm_A6 :
    (after ((at200 0x7F01#16).setReg 15 0xFF)).map (fun t => (t.reg 15, t.pc)) = some (1, 0x202) := by decide
theorem test_ldReg_A8 :
    (after (((at200 0x8120#16).setReg 2 0x33).setReg 15 7)).map (fun t => (t.reg 1, t.reg 15, t.pc)) = some (0x33, 7, 0x202) := by decide
theorem test_orReg_A9 :
    (after ((((at200 0x8121#16).setReg 1 0xF0).setReg 2 0x0F).setReg 15 7)).map (fun t => (t.reg 1, t.reg 15, t.pc)) = some (0xFF, 7, 0x202) := by decide
theorem test_andReg_A10 :
    (after ((((at200 0x8122#16).setReg 1 0xF0).setReg 2 0x3C).setReg 15 7)).map (fun t => (t.reg 1, t.reg 15, t.pc)) = some (0x30, 7, 0x202) := by decide
theorem test_xorReg_A11 :
    (after ((((at200 0x8123#16).setReg 1 0xFF).setReg 2 0x0F).setReg 15 7)).map (fun t => (t.reg 1, t.reg 15, t.pc)) = some (0xF0, 7, 0x202) := by decide
theorem test_addReg_A13 :
    (after (((at200 0x8014#16).setReg 0 5).setReg 1 0xFB)).map (fun t => (t.reg 0, t.reg 15, t.pc)) = some (0, 1, 0x202) := by decide
theorem test_addReg_A17 :
    (after (((at200 0x81F4#16).setReg 1 1).setReg 15 0xFF)).map (fun t => (t.reg 1, t.reg 15, t.pc)) = some (0, 1, 0x202) := by decide
theorem test_subReg_A19 :
    (after ((((at200 0x8015#16).setReg 0 5).setReg 1 6).setReg 15 1)).map (fun t => (t.reg 0, t.reg 15, t.pc)) = some (0xFF, 0, 0x202) := by decide
theorem test_subReg_A21 :
    (after (((at200 0x8F15#16).setReg 15 3).setReg 1 5)).map (fun t => (t.reg 15, t.pc)) = some (0, 0x202) := by decide
theorem test_shr_A23 :
    (after (((at200 0x8016#16).setReg 0 5).setReg 1 0xFF)).map (fun t => (t.reg 0, t.reg 15, t.reg 1, t.pc)) = some (2, 1, 0xFF, 0x202) := by decide
theorem test_shr_A26 :
    (after ((at200 0x8F16#16).setReg 15 2)).map (fun t => (t.reg 15, t.pc)) = some (0, 0x202) := by decide
theorem test_subn_A27 :
    (after (((at200 0x8017#16).setReg 0 5).setReg 1 7)).map (fun t => (t.reg 0, t.reg 15, t.pc)) = some (2, 1, 0x202) := by decide
theorem test_subn_A28 :
    (after ((((at200 0x8017#16).setReg 0 7).setReg 1 5).setReg 15 1)).map (fun t => (t.reg 0, t.reg 15, t.pc)) = some (0xFE, 0, 0x202) := by decide
theorem test_shl_A30 :
    (after (((at200 0x801E#16).setReg 0 0x81).setReg 1 0xFF)).map (fun t => (t.reg 0, t.reg 15, t.pc)) = some (2, 1, 0x202) := by decide
theorem test_shl_A33 :
    (after ((at200 0x8F1E#16).setReg 15 0x7F)).map (fun t => (t.reg 15, t.pc)) = some (0, 0x202) := by decide
theorem test_seImm_B1 :
    (after ((at200 0x3005#16).setReg 0 5)).map (fun t => (t.pc, t.run)) = some (0x204, .running) := by decide
theorem test_seImm_B2 :
    (after ((at200 0x3005#16).setReg 0 6)).map (fun t => (t.pc, t.run)) = some (0x202, .running) := by decide
theorem test_sneImm_B3 :
    (after ((at200 0x4005#16).setReg 0 5)).map (fun t => (t.pc, t.run)) = some (0x202, .running) := by decide
theorem test_sneImm_B4 :
    (after ((at200 0x4005#16).setReg 0 6)).map (fun t => (t.pc, t.run)) = some (0x204, .running) := by decide
theorem test_seReg_B5 :
    (after (((at200 0x5120#16).setReg 1 9).setReg 2 9)).map (fun t => (t.pc, t.run)) = some (0x204, .running) := by decide
theorem test_seReg_B6 :
    (after (((at200 0x5120#16).setReg 1 9).setReg 2 8)).map (fun t => (t.pc, t.run)) = some (0x202, .running) := by decide
theorem test_sneReg_B8 :
    (after (((at200 0x9120#16).setReg 1 9).setReg 2 8)).map (fun t => (t.pc, t.run)) = some (0x204, .running) := by decide
theorem test_sneReg_B9 :
    (after (((at200 0x9120#16).setReg 1 9).setReg 2 9)).map (fun t => (t.pc, t.run)) = some (0x202, .running) := by decide
theorem test_jp_B13 :
    (after (at200 0x1FFF#16)).map (fun t => (t.pc, t.run)) = some (0xFFF, .running) := by decide
theorem test_jpV0_B15 :
    (after ((at200 0xBFFF#16).setReg 0 0xFF)).map (fun t => (t.pc, t.run)) = some (0x10FE, .running) := by decide
theorem test_call_B18 :
    (after ({ at200 0x2300#16 with sp := 1023 })).map (fun t => (t.stack[1023], t.sp, t.pc)) = some (0x0202, 1024, 0x300) := by decide +kernel
theorem test_call_B19 :
    (after ({ at200 0x2300#16 with sp := 1024 })).map (fun t => (t.fault, t.run, t.sp, t.pc)) = some (some .stackOverflow, .halted, 1024, 0x202) := by decide
theorem test_ret_B20 :
    (after (at200 0x00EE#16)).map (fun t => (t.fault, t.run, t.sp, t.pc)) = some (some .stackUnderflow, .halted, 0, 0x202) := by decide
theorem test_ret_B21 :
    (after ({ at200 0x00EE#16 with sp := 1, stack := base.stack.set 0 0x0306 })).map (fun t => (t.sp, t.pc, t.stack[0])) = some (0, 0x306, 0x306) := by decide
theorem test_fetch_B24 :
    (after ((at200 0x6007#16).setPc 0xFFF)).map (fun t => (t.fault, t.run, t.pc)) = some (some (.memoryOutOfBounds 0x1000), .halted, 0xFFF) := by decide
theorem test_fetch_B25 :
    (after ((base.setPc 0x201).placeInstruction 0x6007#16)).map (fun t => (t.reg 0, t.pc)) = some (7, 0x203) := by decide
theorem test_unknown_word_section_9 :
    (after (at200 0x0000#16)).map (fun t => (t.fault, t.run, t.pc)) = some (some (.unknownInstruction 0), .halted, 0x202) := by decide
theorem test_rnd_X1 :
    (after ((at200 0xC00F#16).supplyRandom 0xA7)).map (fun t => (t.reg 0, t.rndQueue, t.pc)) = some (7, [], 0x202) := by decide
theorem test_rnd_X2 :
    (after (((at200 0xC100#16).setReg 1 9).supplyRandom 0xFF)).map (fun t => (t.reg 1, t.pc)) = some (0, 0x202) := by decide
theorem test_ldI_X5 :
    (after (at200 0xAFFF#16)).map (fun t => (t.i, t.pc)) = some (0x0FFF, 0x202) := by decide
theorem test_addI_X7 :
    (after (((at200 0xF01E#16).setI 0xFFFF).setReg 0 1)).map (fun t => (t.i, t.reg 15)) = some (0, 0) := by decide
theorem test_addI_X8 :
    (after (((at200 0xFF1E#16).setI 0x0FFF).setReg 15 1)).map (fun t => (t.i, t.reg 15)) = some (0x1000, 1) := by decide
theorem test_ldF_X11 :
    (after ((at200 0xF029#16).setReg 0 0x0F)).map (fun t => (t.i, t.pc)) = some (0x004B, 0x202) := by decide
theorem test_ldF_X12 :
    (after ((at200 0xF029#16).setReg 0 0x1A)).map (fun t => (t.i, t.pc)) = some (0x0032, 0x202) := by decide

/-! ## One step: display (5), memory transfer (6), keypad and timers (7), ticker (8), boot (10) -/

theorem test_cls_F17 :
    (after (lit [(0, 0), (63, 31)] ((at200 0x00E0#16).setReg 15 1))).map (fun t => (seen t, t.reg 15, t.emitted)) = some ([], 1, [.fbUpdated]) := by decide
theorem test_drw_F1 :
    (after (put 0x300 [0xF0, 0xFF] (((at200 0xD012#16).setReg 0 62).setReg 1 31 |>.setI 0x300))).map (fun t => (seen t, t.reg 15, t.emitted)) = some ([(62, 31), (63, 31)], 0, [.fbUpdated]) := by decide
theorem test_drw_F8 :
    (after (lit [(0, 1)] (put 0x300 [0x80, 0x80] ((at200 0xD012#16).setI 0x300)))).map (fun t => (seen t, t.reg 15)) = some ([(0, 0)], 1) := by decide
theorem test_ldB_M5 :
    (after (((at200 0xF033#16).setReg 0 247).setI 0xFFD)).map (fun t => (t.mem.read 0xFFD, t.mem.read 0xFFE, t.mem.read 0xFFF, t.i)) = some (2, 4, 7, 0xFFD) := by decide
theorem test_ldB_M6 :
    (after (((at200 0xF033#16).setReg 0 100).setI 0xFFE)).map (fun t => (t.fault, t.pc, t.mem.read 0xFFE)) = some (some (.memoryOutOfBounds 0x1000), 0x202, 0) := by decide
theorem test_dump_M8 :
    (after (((((at200 0xF255#16).setReg 0 1).setReg 1 2).setReg 2 3).setReg 3 4 |>.setI 0x300)).map (fun t => ((List.range 4).map fun k => t.mem.read (0x300 + k), t.i)) = some ([1, 2, 3, 0], 0x300) := by decide
theorem test_dump_M10 :
    (after (((at200 0xF155#16).setReg 0 0x77).setI 0xFFF)).map (fun t => (t.fault, t.pc, t.mem.read 0xFFF)) = some (some (.memoryOutOfBounds 0x1000), 0x202, 0) := by decide
theorem test_load_M13 :
    (after (put 0x300 [0xAA, 0xBB, 0xCC] (((at200 0xF165#16).setReg 2 0x55).setI 0x300))).map (fun t => (t.reg 0, t.reg 1, t.reg 2, t.i)) = some (0xAA, 0xBB, 0x55, 0x300) := by decide
theorem test_load_M15 :
    (after (put 0xFFF [0x42] (((at200 0xF165#16).setReg 0 5).setI 0xFFF))).map (fun t => (t.fault, t.reg 0)) = some (some (.memoryOutOfBounds 0x1000), 5) := by decide
theorem test_skp_T3 :
    (after (((at200 0xE09E#16).setReg 0 0x15).setKey 5 true)).map (fun t => (t.pc)) = some (0x204) := by decide
theorem test_skp_T2 :
    (after ((at200 0xE09E#16).setReg 0 5)).map (fun t => (t.pc)) = some (0x202) := by decide
theorem test_sknp_T4 :
    (after ((at200 0xE0A1#16).setReg 0 5)).map (fun t => (t.pc)) = some (0x204) := by decide
theorem test_sknp_T5 :
    (after (((at200 0xE0A1#16).setReg 0 5).setKey 5 true)).map (fun t => (t.pc)) = some (0x202) := by decide
theorem test_ldVxK_T6 :
    (after ({ at200 0xF30A#16 with schedule := [.keyPress 11] })).map (fun t => (t.reg 3, t.pc, t.keyEvent)) = some (0x0B, 0x202, none) := by decide
theorem test_ldVxK_T7 :
    (after (at200 0xF30A#16)).map (fun t => (t.reg 3, t.pc, t.run)) = some (0, 0x200, .running) := by decide
theorem test_ldVxDt_T13 :
    (after (((at200 0xFF07#16).setDt 200).setReg 15 1)).map (fun t => (t.reg 15, t.dt)) = some (200, 200) := by decide
theorem test_ldDtVx_T11 :
    (after ((at200 0xF415#16).setDt 9)).map (fun t => (t.dt)) = some (0) := by decide
theorem test_ldStVx_T12 :
    (after ((at200 0xF118#16).setReg 1 2)).map (fun t => (t.st, t.emitted)) = some (2, []) := by decide
theorem test_tick_K6 :
    (after ({ base with schedule := [.tick], dt := 1, st := 3 })).map (fun t => (t.dt, t.st, t.emitted)) = some (0, 2, [.audioTick]) := by decide
theorem test_tick_K3 :
    (after ({ base with schedule := [.tick] })).map (fun t => (t.dt, t.st, t.emitted)) = some (0, 0, []) := by decide
theorem test_reset_L4 :
    (after ({ base.setReg 0 7 with schedule := [.reset], run := .halted, fault := some .stackOverflow, sp := 3 })).map (fun t => (t.reg 0, t.sp, t.run, t.fault)) = some (0, 0, .boot, none) := by decide

/-- L5: reset, font, program, start, one step, in the machine's own run. -/
theorem test_boot_L5 :
    (match Sys2Proof.core.run 4
        { State.reset with schedule := [.installFont Config.defaultFont, .load [0x60, 0x05], .start, .execute] } with
      | .next t => some (State.reg t 0, State.pc t)
      | _ => none) = some (5, 0x202) := by decide

/-- L2: a program of 3585 bytes is reported and not loaded. -/
theorem test_load_L2 :
    (after { State.reset with schedule := [.load (List.replicate 3585 1)] }).map (fun t => (t.mem, t.run, t.emitted)) =
      some ([], .boot, [.capacityError]) := by decide +kernel

/-! ## Witnesses: for each statement with hypotheses, states and operands that meet them, at the boundaries of each clause -/

/-- `base` meets the invariant. -/
theorem base_inv : base.Inv := ⟨by decide, by decide, rfl⟩

theorem witness_DecodingAnEncodedInstructionGivesItBack : (Instr.drw 15 0 15).wellFormed = true := by decide

theorem witness_EncodingADecodedWordGivesItBackButForTheShiftsY :
    decode 0x80F6#16 = some (.shr 0) ∧ decode 0x8F0E#16 = some (.shl 15) ∧ decode 0xFFFF#16 = none ∧
      decode 0xDFFF#16 = some (.drw 15 15 15) := by decide

theorem witness_AWordIsDecodedByItsOnlyOpcodeRow :
    decode 0xFF65#16 = some (.load 15) ∧ 0xFF65#16 &&& (rowOf (.load 0)).1 = (rowOf (.load 0)).2 := by decide

theorem witness_AStepFetchesAdvancesDecodesAndExecutes :
    (base.nextMove = .execute ∧ base.run = .running ∧ State.reset.nextMove = .execute ∧ State.reset.run ≠ .running) ∧
      (base.setPc 4095).fetch = .error (.memoryOutOfBounds 4096) ∧
      base.fetch = .ok 0x0000#16 ∧ decode 0x0000#16 = none ∧ (put 0xFFE [0x6F, 0xFF] (base.setPc 0xFFE)).fetch = .ok 0x6FFF#16 ∧
      decode 0x6FFF#16 = some (.ldImm 15 0xFF) := by decide

theorem witness_AFetchIsBigEndianAndBounded :
    (base.setPc 4094).pc.toNat < 4095 ∧ (base.setPc 4095).pc.toNat = 4095 ∧ 4095 < (base.setPc 4096).pc.toNat := by decide

theorem witness_MovesThatAreNotEnabledChangeNothing :
    (State.reset.run = .boot ∧ State.reset.nextMove = .execute) ∧
      ((base.halted .stackOverflow).run = .halted ∧ (base.halted .stackOverflow).nextMove = .execute) ∧
      [Move.tick, .keyPress 15, .installFont Config.defaultFont, .load [1], .start].all (fun m =>
        decide (State.nextMove { base.halted .stackOverflow with schedule := [m] } = m ∧ (base.halted .stackOverflow).run ≠ .running ∧
          (base.halted .stackOverflow).run ≠ .boot)) = true := by decide

theorem witness_EveryStepKeepsTheInvariant : ∃ t, base.Inv ∧ step base = .next t := ⟨_, base_inv, rfl⟩

theorem witness_ARunningMachineRunsOnOrHaltsWithACause :
    ∃ t, base.Inv ∧ base.run = .running ∧ base.nextMove ≠ .reset ∧ step base = .next t :=
  ⟨_, base_inv, rfl, by decide, rfl⟩

theorem witness_OnlyAResetLeavesTheHaltedState :
    (∃ s t : State, s.run = .halted ∧ step s = .next t ∧ s.nextMove ≠ .reset) ∧
      ∃ s t : State, s.run = .halted ∧ step s = .next t ∧ s.nextMove = .reset :=
  ⟨⟨{ base.halted .stackOverflow with schedule := [.tick] }, _, rfl, rfl, by decide⟩,
    ⟨{ base.halted .stackOverflow with schedule := [.reset] }, _, rfl, rfl, by decide⟩⟩

/-- On both sides of each bound of the list: the stack, a sprite's, a digit run's and a register run's last byte. -/
theorem witness_ExecutionFaultsExactlyAsListedAndPrecisely :
    (({ base with sp := 1024 } : State).sp.val = 1024 ∧ ({ base with sp := 1023 } : State).sp.val ≠ 1024) ∧
      (base.sp.val = 0 ∧ ({ base with sp := 1 } : State).sp.val ≠ 0) ∧
      ((15 ≠ 0 ∧ 4095 < (base.setI 4082).i.toNat + 15 - 1) ∧ ¬ (15 ≠ 0 ∧ 4095 < (base.setI 4081).i.toNat + 15 - 1) ∧
        ¬ (0 ≠ 0 ∧ 4095 < (base.setI 65535).i.toNat + 0 - 1)) ∧
      (4095 < (base.setI 4094).i.toNat + 2 ∧ ¬ 4095 < (base.setI 4093).i.toNat + 2) ∧
      (4095 < (base.setI 4081).i.toNat + 15 ∧ ¬ 4095 < (base.setI 4080).i.toNat + 15) := by decide

/-- A flag writer, a destination other than `VF`, and an instruction of neither kind. -/
theorem witness_OnlyFlagWritersAndDestinationsChangeVF :
    [Instr.addImm 15 1, .ldImm 14 1, .cls].all (fun i =>
      match exec i (base.setReg 15 9) with
      | .next t => t.run != .halted
      | _ => false) = true := by decide

theorem witness_EachPieceOfStateHasItsOwnWriters :
    (∃ t, exec (.call 0) base = .next t ∧ t.stack ≠ base.stack ∧ t.sp ≠ base.sp) ∧
      (∃ t, exec (.drw 0 0 1) (put 0 [0x80] base) = .next t ∧ t.fb.pixel (0, 0) ≠ (put 0 [0x80] base).fb.pixel (0, 0)) ∧
      (∃ t, exec (.ldI 4095) base = .next t ∧ t.i ≠ base.i) ∧
      (∃ t, exec (.dump 0) (base.setReg 0 1) = .next t ∧ t.mem.read 0 ≠ (base.setReg 0 1).mem.read 0) ∧
      (∃ t, exec (.ldDtVx 0) (base.setReg 0 1) = .next t ∧ t.dt ≠ (base.setReg 0 1).dt) ∧
      ∃ t, exec (.ldStVx 0) (base.setReg 0 1) = .next t ∧ t.st ≠ (base.setReg 0 1).st :=
  ⟨⟨_, rfl, fun h => absurd (congrArg (fun v => v[0]) h) (by decide), by decide⟩, ⟨_, rfl, by decide⟩, ⟨_, rfl, by decide⟩,
    ⟨_, rfl, by decide⟩,
    ⟨_, rfl, by decide⟩, ⟨_, rfl, by decide⟩⟩

theorem witness_TheOtherAgentsTouchOnlyTheirOwnState :
    [Move.tick, .setKey 15 true, .supplyRandom 0xFF].all (fun m => State.nextMove { base with schedule := [m] } == m) = true := by
  decide

theorem witness_ATimerRisesOnlyByItsSetInstruction :
    (∃ s t : State, step s = .next t ∧ s.dt.toNat < t.dt.toNat) ∧ ∃ s t : State, step s = .next t ∧ s.st.toNat < t.st.toNat :=
  ⟨⟨(at200 0xF015#16).setReg 0 1, _, rfl, by decide⟩, ⟨(at200 0xF018#16).setReg 0 1, _, rfl, by decide⟩⟩

theorem witness_OppositeShiftsClearTheEndBit : (14 : Reg) ≠ 15 := by decide

theorem witness_CallPushesTheNextAddressAndJumps :
    ({ base with sp := 1023 } : State).sp.val < 1024 ∧ ({ base with sp := 1024 } : State).sp.val = 1024 := by decide

theorem witness_ReturnPopsTheStackIntoPc : 0 < ({ base with sp := 1 } : State).sp.val ∧ base.sp.val = 0 := by decide

/-- A call into the last free entry but one, then two steps at its depth or above: a call and the return from it. -/
theorem witness_AReturnAtTheCallsDepthResumesAfterTheCall :
    ∃ s t u : State, s.sp.val < 1024 ∧ exec (.call 0x300) s = .next t ∧ StepsAbove t.sp.val t u ∧ u ≠ t ∧ u.sp = t.sp :=
  ⟨put 0x300 [0x23, 0x04] { put 0x304 [0x00, 0xEE] base with sp := 1022 }, _, _, by decide, rfl,
    .more (.more (.done _) rfl (by decide)) rfl (by decide), by decide +kernel, by decide⟩

theorem witness_AJumpToItselfRests :
    (at200 0x1200#16).run = .running ∧ (at200 0x1200#16).nextMove = .execute ∧ (at200 0x1200#16).complete :=
  ⟨rfl, rfl, 0x1200#16, 0x200, by decide, by decide, by decide⟩

theorem witness_RandomWritesTheMaskedDraw : (base.supplyRandom 7).rndQueue = 7 :: [] ∧ base.rndQueue = [] := by decide

theorem witness_DrawInvertsTheSpritesPixelsAndFlagsCollision :
    ((0 : Nat) = 0 ∨ (base.setI 65535).i.toNat + 0 ≤ 4096) ∧ ((15 : Nat) = 0 ∨ (base.setI 4081).i.toNat + 15 ≤ 4096) ∧
      (∃ q, (put 0 [0x80] base).drawsOn 0 0 1 q ∧ (lit [q] (put 0 [0x80] base)).fb.pixel q = true) :=
  ⟨by decide, by decide, (0, 0), ⟨0, by decide, 0, by decide, by decide⟩, by decide⟩

theorem witness_ASpriteIsClippedAtTheEdges :
    ∃ s t : State, exec (.drw 0 1 2) s = .next t ∧ t.run ≠ .halted ∧ t.fb.pixel (63, 31) ≠ s.fb.pixel (63, 31) ∧ t.reg 15 = 1 :=
  ⟨lit [(63, 31)] (put 0 [0xC0, 0xFF] ((base.setReg 0 255).setReg 1 255)), _, rfl, by decide, by decide, by decide⟩

theorem witness_DrawingTwiceRestoresTheDisplay :
    (14 : Reg) ≠ 15 ∧ (0 : Reg) ≠ 15 ∧ ((15 : Nat) = 0 ∨ (base.setI 4081).i.toNat + 15 ≤ 4096) := by decide

theorem witness_BcdStoresThreeDigits :
    base.mem.wf ∧ (base.setI 4093).i.toNat + 2 ≤ 4095 ∧ 4095 < (base.setI 4094).i.toNat + 2 := by decide

theorem witness_BcdDigitsMakeUpTheValue :
    ∃ t, (base.setI 4093).mem.wf ∧ (base.setI 4093).i.toNat + 2 ≤ 4095 ∧ exec (.ldB 15) (base.setI 4093) = .next t :=
  ⟨_, by decide, by decide, rfl⟩

theorem witness_DumpStoresRegistersUpToX_and_LoadFillsRegistersUpToX :
    base.mem.wf ∧ (base.setI 4080).i.toNat + (15 : Reg).val ≤ 4095 ∧ 4095 < (base.setI 4081).i.toNat + (15 : Reg).val ∧
      4095 < (base.setI 65535).i.toNat + (0 : Reg).val := by decide

theorem witness_ALoadAfterADumpRestoresTheRegisters :
    ∃ t, (base.setI 4080).mem.wf ∧ (base.setI 4080).i.toNat + (15 : Reg).val ≤ 4095 ∧
      exec (.dump 15) (base.setI 4080) = .next t :=
  ⟨_, by decide, by decide, rfl⟩

theorem witness_AStoreIsSeenByTheVeryNextFetch :
    0 < (1 : Reg).val ∧ base.mem.wf ∧ ((base.setI 4094).setPc 4094).i.toNat + (1 : Reg).val ≤ 4095 ∧
      ((base.setI 4094).setPc 4094).pc.toNat = ((base.setI 4094).setPc 4094).i.toNat + 0 := by decide

theorem witness_KeySkipsFollowTheHeldKey : (15 : Key).val = ((base.setReg 0 0xFF).reg 0).toNat % 16 := by decide

theorem witness_KeyWaitTakesAPressOrHolds : (base.setKeyEvent (some 15)).keyEvent = some 15 ∧ base.keyEvent = none := by decide

theorem witness_AKeyPressEndsAWaitAndNothingElse :
    ((at200 0xFF0A#16).keyEvent = none ∧ (at200 0xFF0A#16).run = .running ∧ (at200 0xFF0A#16).fetch = .ok 0xFF0A#16 ∧
      decode 0xFF0A#16 = some (.ldVxK 15) ∧ (at200 0xFF0A#16).nextMove = .execute) ∧
      State.nextMove { at200 0xFF0A#16 with schedule := [.keyPress 15] } = .keyPress 15 ∧
      (∀ w x, base.fetch = .ok w → decode w ≠ some (.ldVxK x)) := by
  have hf : base.fetch = .ok 0x0000#16 := by decide
  have hd : decode 0x0000#16 = none := by decide
  refine ⟨by decide, by decide, fun w x h => ?_⟩
  rw [← Except.ok.inj (hf.symm.trans h), hd]
  exact nofun

theorem witness_ATickCountsEachNonzeroTimerDown :
    (({ base with schedule := [.tick] } : State).run = .running ∧ State.nextMove { base with schedule := [.tick] } = .tick) ∧
      ∃ t, State.reset.run ≠ .running ∧ step { State.reset with schedule := [.tick] } = .next t :=
  ⟨by decide, _, by decide, rfl⟩

theorem witness_ManyTicksCountDownAndSound : base.run = .running := by decide

/-- At a jump to itself, with the timers as given and the sound ticks heard so far. -/
def resting (d : Byte) (heard : List Output) : State :=
  { base.placeInstruction 0x1200#16 with dt := d, st := d, emitted := heard, schedule := [] }

/-- Both timers at 1 until the first tick, at 0 after it. -/
def restingRun (n : Nat) : State := if n < 2 then resting 1 [] else resting 0 [.audioTick]

/-- The executor and the ticker take turns. -/
def takingTurns (n : Nat) : Move := if n % 2 = 0 then .execute else .tick

theorem resting_fetch (d : Byte) (heard : List Output) : (resting d heard).fetch = .ok 0x1200#16 :=
  (State.fetch_congr (s := resting 0 []) rfl rfl).trans (by decide)

theorem resting_execute (d : Byte) (heard : List Output) : (resting d heard).turn .execute = .next (resting d heard) := by
  rw [State.turn_eq_perform, State.perform, State.executorStep_running rfl,
    State.instructionStep_ok (resting_fetch d heard) (i := .jp 0x200) (by decide)]
  exact congrArg (fun p => Host.Outcome.next { resting d heard with pc := p }) (show zextAddr 0x200 = 0x200 by decide)

theorem restingRun_isRun : IsRun restingRun takingTurns := fun n => by
  have tick_counts : (resting 1 []).turn .tick = .next (resting 0 [.audioTick]) := rfl
  have tick_rests : (resting 0 [.audioTick]).turn .tick = .next (resting 0 [.audioTick]) := rfl
  obtain rfl | rfl | hn : n = 0 ∨ n = 1 ∨ 2 ≤ n := by omega
  · exact resting_execute 1 []
  · exact tick_counts
  · rw [restingRun, restingRun, if_neg (by omega), if_neg (by omega), takingTurns]
    split
    · exact resting_execute 0 _
    · exact tick_rests

/-- A fair run that stays running, sets no timer, and starts with both timers above 0. -/
theorem witness_FairTicksBringAnUnsetTimerToZero :
    FairRun restingRun takingTurns ∧ (∀ n, (restingRun n).run = .running) ∧ (restingRun 0).dt = 1 ∧ (restingRun 0).st = 1 ∧
      ∀ n w x, takingTurns n = .execute → (restingRun n).fetch = .ok w →
        decode w ≠ some (.ldDtVx x) ∧ decode w ≠ some (.ldStVx x) := by
  have hf : ∀ n, (restingRun n).fetch = .ok 0x1200#16 := fun n => by
    unfold restingRun
    split <;> exact resting_fetch _ _
  have hd : decode 0x1200#16 = some (.jp 0x200) := by decide
  refine ⟨⟨restingRun_isRun, fun n => ⟨⟨2 * n + 1, by omega, fun _ => ?_⟩, ⟨2 * n, by omega, fun _ => ?_⟩⟩⟩, fun n => ?_, by decide,
    by decide, fun n w x _ h => ?_⟩
  · rw [takingTurns, if_neg (by omega)]
  · rw [takingTurns, if_pos (by omega)]
  · unfold restingRun
    split <;> rfl
  · rw [← Except.ok.inj ((hf n).symm.trans h), hd]
    exact ⟨nofun, nofun⟩

theorem held : (at200 0xF30A#16).turn .execute = .next (at200 0xF30A#16) := by
  rw [State.turn_eq_perform, State.perform, State.executorStep_running rfl,
    State.instructionStep_ok (w := 0xF30A#16) (i := .ldVxK 3) (by decide) (by decide)]
  exact congrArg (fun p => Host.Outcome.next { at200 0xF30A#16 with pc := p }) (show (0x202#16 : Word) - 2 = 0x200 by decide)

/-- A run held at 0x200 in which the executor has every turn. -/
theorem witness_OnlyTheHostLiftsAKeyWait :
    IsRun (fun _ => at200 0xF30A#16) (fun _ => .execute) ∧ (at200 0xF30A#16).keyEvent = none ∧
      (at200 0xF30A#16).waitsForKey = true ∧ Move.execute ≠ .reset ∧ ∀ k, Move.execute ≠ .keyPress k :=
  ⟨fun _ => held, rfl, by decide, nofun, nofun⟩

theorem witness_TheFirstInstructionIsAt0x200 :
    ∃ i, (State.launch (Vector.replicate 80 0) [0x60, 0x05]).fetch = .ok 0x6005#16 ∧ decode 0x6005#16 = some i :=
  ⟨.ldImm 0 5, by decide +kernel, by decide⟩

theorem witness_AHostResetWorksInEveryRunState :
    [RunState.boot, .running, .halted].all (fun r => State.nextMove { base with run := r, schedule := [.reset] } == .reset) = true := by
  decide

theorem witness_LoadingAProgramIsAllOrNothing :
    State.reset.mem.wf ∧ State.reset.run = .boot ∧
      [3584, 3585].all (fun n =>
        State.nextMove { State.reset with schedule := [.load (List.replicate n 1)] } == .load (List.replicate n 1)) = true ∧
      (List.replicate 3584 (1 : Byte)).length ≤ 3584 ∧ 3584 < (List.replicate 3585 (1 : Byte)).length :=
  ⟨by decide, by decide, by decide +kernel, le_of_eq List.length_replicate, by rw [List.length_replicate]; decide⟩

theorem witness_BootLeadsToTheLaunchState : (List.replicate 3584 (1 : Byte)).length ≤ 3584 :=
  le_of_eq List.length_replicate

end Sys2Proof.Tests
end

section
/-! PROOFS. The executor's turn as one step of the schedule (spec/10_state.md R27): the step performs the next move, and
the instruction step has one equation for each way it goes. -/

namespace Sys2Proof.Machine

/-- A step performs the schedule's next move on the state without it. -/
theorem step_of_nextMove {s : State} {m : Move} (h : s.nextMove = m) : step s = s.dropMove.perform m := by
  rw [step, h]

/-- A step whose next move is `execute` is the executor's turn. -/
theorem step_of_execute {s : State} (h : s.nextMove = .execute) : step s = s.dropMove.executorStep :=
  step_of_nextMove h

/-- In `RUNNING` a step whose next move is `execute` is an instruction step. -/
theorem step_of_execute_running {s : State} (hm : s.nextMove = .execute) (hr : s.run = .running) :
    step s = s.dropMove.instructionStep :=
  (step_of_execute hm).trans (State.executorStep_running hr)

/-- The advance of `pc`, in the spec's numeral. -/
theorem State.advance_eq (s : State) : s.advance = s.setPc (s.pc + 2) := rfl

/-- To raise a fault is to go on in `HALTED` with the fault latched. -/
theorem State.raise_eq (s : State) (f : Fault) : s.raise f = .next (s.halted f) := rfl

/-- A fetch that faults is raised with `pc` as it was. -/
theorem State.instructionStep_error {s : State} {f : Fault} (hf : s.fetch = .error f) :
    s.instructionStep = s.raise f := by
  rw [State.instructionStep, hf]

/-- A fetched word that decodes to nothing is raised after the advance of `pc`. -/
theorem State.instructionStep_unknown {s : State} {w : Word} (hf : s.fetch = .ok w) (hd : decode w = none) :
    s.instructionStep = s.advance.raise (.unknownInstruction w) := by
  rw [State.instructionStep, hf]
  simp only [hd]

/-- Outside `RUNNING` the executor's turn leads to no other state. -/
theorem State.executorStep_next_of_not_running {s t : State} (hr : s.run ≠ .running)
    (h : s.executorStep = .next t) : t = s := by
  rcases s.executorStep_cases with ⟨hrun, -⟩ | ⟨-, hnext⟩ | ⟨f, -, -, hfault⟩
  · exact absurd hrun hr
  · cases hnext.symm.trans h
    rfl
  · cases hfault.symm.trans h

/-- Settles O6: in `RUNNING`, by the equation of the instruction step for each outcome of fetch and decode; in any other
run state the executor's turn has no other next state. -/
theorem aStepFetchesAdvancesDecodesAndExecutes : Obligations.AStepFetchesAdvancesDecodesAndExecutes := by
  unfold Obligations.AStepFetchesAdvancesDecodesAndExecutes
  intro s hm
  constructor
  · intro hr
    have hstep := step_of_execute_running hm hr
    have hfetch := s.fetch_dropMove
    refine ⟨fun f hf => ?fetchFault, fun w hf hd => ?unknown, fun w i hf hd => ?executed⟩
    case fetchFault => rw [hstep, State.instructionStep_error (hfetch.trans hf), State.raise_eq]
    case unknown =>
      rw [hstep, State.instructionStep_unknown (hfetch.trans hf) hd, State.raise_eq, State.advance_eq, State.dropMove_pc]
    case executed =>
      rw [hstep, State.instructionStep_ok (hfetch.trans hf) hd, State.advance_eq, State.dropMove_pc]
  · intro hr t h
    exact State.executorStep_next_of_not_running hr ((step_of_execute hm).symm.trans h)

end Sys2Proof.Machine
end

section
/-! PROOFS. Load, add, subtract and shift (spec/40_alu.md): one rule for the write of a result with its flag, the values
of each operation as the spec states them, and the instructions from the two. -/

namespace Sys2Proof.Machine

/-- Frames over the same pieces compose. -/
theorem State.UnchangedBut.trans {s t u : State} {parts : List Part} (hst : s.UnchangedBut t parts)
    (htu : t.UnchangedBut u parts) : s.UnchangedBut u parts := by
  intro p hp
  have h₁ := hst p hp
  have h₂ := htu p hp
  cases p with
  | mem | regs | display => exact fun a => (h₂ a).trans (h₁ a)
  | random => exact ⟨h₂.1.trans h₁.1, h₂.2.trans h₁.2⟩
  | index | pc | stack | sp | delay | sound | run | fault | keyHeld | keyEvent | emitted | schedule =>
    exact Eq.trans h₂ h₁

theorem State.unchangedBut_setReg (s : State) (x : Reg) (b : Byte) : s.UnchangedBut (s.setReg x b) [.regs] := by
  intro p hp
  cases p with
  | regs => exact absurd List.mem_cons_self hp
  | mem | display => exact fun _ => rfl
  | random => exact ⟨rfl, rfl⟩
  | index | pc | stack | sp | delay | sound | run | fault | keyHeld | keyEvent | emitted | schedule => rfl

/-- A flagged write is two register writes, so its frame is theirs. -/
theorem State.unchangedBut_writeFlagged (s : State) (x : Reg) (f : Flagged) :
    s.UnchangedBut (s.writeFlagged x f) [.regs] :=
  (s.unchangedBut_setReg x f.result).trans (State.unchangedBut_setReg _ Config.flagReg _)

/-- The whole effect of a flagged write: `VF` holds the flag, another destination the result, and nothing else changes
(spec/10_state.md R23). -/
theorem State.writeFlagged_effect {s t : State} {x : Reg} {f : Flagged} (h : s.writeFlagged x f = t) :
    (t.reg 15 = if f.flag then 1 else 0) ∧ (x ≠ 15 → t.reg x = f.result) ∧
      (∀ r, r ≠ 15 → r ≠ x → t.reg r = s.reg r) ∧ s.UnchangedBut t [.regs] := by
  subst h
  refine ⟨?flag, fun hx => ?result, fun r h15 hx => ?others, s.unchangedBut_writeFlagged x f⟩
  case flag => rw [State.reg_writeFlagged, if_pos rfl]
  case result => rw [State.reg_writeFlagged, if_neg hx, if_pos rfl]
  case others => rw [State.reg_writeFlagged, if_neg h15, if_neg hx]

/-- The flag's byte as a number, for a flag that decides `p`. -/
theorem toNat_flagByte (p : Prop) [Decidable p] :
    (if decide p = true then (1 : Byte) else 0).toNat = if p then 1 else 0 := by
  by_cases h : p <;> simp [h]

theorem toNat_addCarry_result (a b : Byte) : (addCarry a b).result.toNat = (a.toNat + b.toNat) % 256 :=
  BitVec.toNat_ofNat ..

/-- The difference of two bytes is narrowed modulo 256, from a negative integer too. -/
theorem toNat_subNoBorrow_result (a b : Byte) :
    ((subNoBorrow a b).result.toNat : Int) = ((a.toNat : Int) - b.toNat) % 256 := by
  have hnarrowed : (subNoBorrow a b).result.toNat = (((a.toNat : Int) - b.toNat) % 256).toNat := BitVec.toNat_ofInt ..
  rw [hnarrowed, Int.toNat_of_nonneg (Int.emod_nonneg _ (by decide))]

/-- Halving the number shifts the bits right (R128). -/
theorem shiftRightOne_result (a : Byte) : (shiftRightOne a).result = a >>> 1 := by
  have ha := a.toNat_lt
  have hnarrowed : (shiftRightOne a).result.toNat = a.toNat / 2 % 2 ^ 8 := BitVec.toNat_ofNat ..
  apply BitVec.eq_of_toNat_eq
  rw [hnarrowed, BitVec.toNat_ushiftRight, Nat.shiftRight_eq_div_pow]
  omega

theorem shiftRightOne_flag (a : Byte) : (shiftRightOne a).flag = a.getLsbD 0 := (Nat.testBit_zero a.toNat).symm

/-- Doubling the number modulo 256 shifts the bits left (R130). -/
theorem shiftLeftOne_result (a : Byte) : (shiftLeftOne a).result = a <<< 1 := by
  have hnarrowed : (shiftLeftOne a).result.toNat = 2 * a.toNat % 2 ^ 8 := BitVec.toNat_ofNat ..
  apply BitVec.eq_of_toNat_eq
  rw [hnarrowed, BitVec.toNat_shiftLeft, Nat.shiftLeft_eq, Nat.pow_one, Nat.mul_comm]

theorem shiftLeftOne_flag (a : Byte) : (shiftLeftOne a).flag = a.getLsbD 7 :=
  (Nat.testBit_eq_decide_div_mod_eq (x := a.toNat) (i := 7)).symm

/-- A flagged write of a sum, in numbers (R121, R126). -/
theorem State.writeFlagged_addCarry {s t : State} {x : Reg} {a b : Byte} (h : s.writeFlagged x (addCarry a b) = t) :
    (t.reg 15).toNat = (if a.toNat + b.toNat ≥ 256 then 1 else 0) ∧
      (x ≠ 15 → (t.reg x).toNat = (a.toNat + b.toNat) % 256) ∧
      (∀ r, r ≠ 15 → r ≠ x → t.reg r = s.reg r) ∧ s.UnchangedBut t [.regs] := by
  obtain ⟨hflag, hresult, hothers, hframe⟩ := State.writeFlagged_effect h
  refine ⟨?flag, fun hx => ?result, hothers, hframe⟩
  case flag => exact (congrArg BitVec.toNat hflag).trans (toNat_flagByte _)
  case result => rw [hresult hx, toNat_addCarry_result]

/-- A flagged write of a difference, in numbers (R127, R129). -/
theorem State.writeFlagged_subNoBorrow {s t : State} {x : Reg} {a b : Byte}
    (h : s.writeFlagged x (subNoBorrow a b) = t) :
    (t.reg 15).toNat = (if b.toNat ≤ a.toNat then 1 else 0) ∧
      (x ≠ 15 → ((t.reg x).toNat : Int) = ((a.toNat : Int) - b.toNat) % 256) ∧
      (∀ r, r ≠ 15 → r ≠ x → t.reg r = s.reg r) ∧ s.UnchangedBut t [.regs] := by
  obtain ⟨hflag, hresult, hothers, hframe⟩ := State.writeFlagged_effect h
  refine ⟨?flag, fun hx => ?result, hothers, hframe⟩
  case flag => exact (congrArg BitVec.toNat hflag).trans (toNat_flagByte _)
  case result => rw [hresult hx, toNat_subNoBorrow_result]

/-- Settles O19: the instruction is one register write, read back at every register. -/
theorem loadImmediateWritesTheByte : Obligations.LoadImmediateWritesTheByte := by
  unfold Obligations.LoadImmediateWritesTheByte
  intro x nn s
  exact ⟨s.setReg x nn, rfl, fun r => s.reg_setReg x r nn, s.unchangedBut_setReg x nn⟩

/-- Settles O21: the instruction is a flagged write of the sum of `V[x]` and `NN`. -/
theorem addImmediateWrapsAndWritesTheCarry : Obligations.AddImmediateWrapsAndWritesTheCarry := by
  unfold Obligations.AddImmediateWrapsAndWritesTheCarry
  intro x nn s
  exact ⟨s.writeFlagged x (addCarry (s.reg x) nn), rfl, State.writeFlagged_addCarry rfl⟩

/-- Settles O22: the instruction is a flagged write of the sum of `V[x]` and `V[y]`, both read before it. -/
theorem addRegisterWrapsAndWritesTheCarry : Obligations.AddRegisterWrapsAndWritesTheCarry := by
  unfold Obligations.AddRegisterWrapsAndWritesTheCarry
  intro x y s
  exact ⟨s.writeFlagged x (addCarry (s.reg x) (s.reg y)), rfl, State.writeFlagged_addCarry rfl⟩

/-- Settles O23: the instruction is a flagged write of the difference of `V[x]` and `V[y]`, both read before it. -/
theorem subtractWrapsAndWritesNoBorrow : Obligations.SubtractWrapsAndWritesNoBorrow := by
  unfold Obligations.SubtractWrapsAndWritesNoBorrow
  intro x y s
  exact ⟨s.writeFlagged x (subNoBorrow (s.reg x) (s.reg y)), rfl, State.writeFlagged_subNoBorrow rfl⟩

/-- Settles O25: the instruction is a flagged write of `V[x]` shifted right, with the bit shifted out. -/
theorem shiftRightHalvesAndFlagsTheLowBit : Obligations.ShiftRightHalvesAndFlagsTheLowBit := by
  unfold Obligations.ShiftRightHalvesAndFlagsTheLowBit
  intro x s
  refine ⟨s.writeFlagged x (shiftRightOne (s.reg x)), rfl, ?effect⟩
  rw [← shiftRightOne_result, ← shiftRightOne_flag]
  exact State.writeFlagged_effect rfl

/-- Settles O26: the instruction is a flagged write of `V[x]` shifted left, with the bit shifted out. -/
theorem shiftLeftDoublesAndFlagsTheHighBit : Obligations.ShiftLeftDoublesAndFlagsTheHighBit := by
  unfold Obligations.ShiftLeftDoublesAndFlagsTheHighBit
  intro x s
  refine ⟨s.writeFlagged x (shiftLeftOne (s.reg x)), rfl, ?effect⟩
  rw [← shiftLeftOne_result, ← shiftLeftOne_flag]
  exact State.writeFlagged_effect rfl

end Sys2Proof.Machine
end

section
/-! PROOFS. Skip, call, return and jump (spec/41_control_flow.md): what a write of `pc`, a skip, a push and a pop do, and
the instructions from these. -/

namespace Sys2Proof.Machine

/-- Control flow writes `stack`, `sp` and `pc` only: a frame holds that leaves out each of the three that changes. -/
theorem State.UnchangedBut.of_control {s : State} {parts : List Part}
    {stack : Vector (BitVec Config.stackWidth) Config.stackDepth} {sp : Fin (Config.stackDepth + 1)} {pc : Word}
    (hstack : .stack ∈ parts ∨ stack = s.stack) (hsp : .sp ∈ parts ∨ sp = s.sp) (hpc : .pc ∈ parts ∨ pc = s.pc) :
    s.UnchangedBut { s with stack := stack, sp := sp, pc := pc } parts := by
  intro p hp
  cases p with
  | stack => exact hstack.resolve_left hp
  | sp => exact hsp.resolve_left hp
  | pc => exact hpc.resolve_left hp
  | mem | regs | display => exact fun _ => rfl
  | random => exact ⟨rfl, rfl⟩
  | index | delay | sound | run | fault | keyHeld | keyEvent | emitted | schedule => rfl

theorem State.unchangedBut_setPc (s : State) (w : Word) : s.UnchangedBut (s.setPc w) [.pc] :=
  .of_control (.inr rfl) (.inr rfl) (.inl (by decide))

theorem State.unchangedBut_push?_setPc {s t : State} {w : Word} (h : s.push? w = some t) (pc : Word) :
    s.UnchangedBut (t.setPc pc) [.stack, .sp, .pc] := by
  obtain ⟨_, _, rfl⟩ := State.push?_eq_some h
  exact .of_control (.inl (by decide)) (.inl (by decide)) (.inl (by decide))

theorem State.unchangedBut_pop?_setPc {s t : State} {w : Word} (h : s.pop? = some (w, t)) (pc : Word) :
    s.UnchangedBut (t.setPc pc) [.sp, .pc] := by
  obtain ⟨_, _, _, _, rfl⟩ := State.pop?_eq_some h
  exact .of_control (.inr rfl) (.inl (by decide)) (.inl (by decide))

/-- The whole effect of a skip on a condition that says `p` (R148). -/
theorem State.skipIf_effect (s : State) {c : Bool} {p : Prop} [Decidable p] (hc : c = true ↔ p) :
    (s.skipIf c).pc.toNat = (if p then (s.pc.toNat + 2) % 65536 else s.pc.toNat) ∧
      s.UnchangedBut (s.skipIf c) [.pc] := by
  rw [State.skipIf_eq]
  refine ⟨?pc, s.unchangedBut_setPc _⟩
  by_cases hp : p
  · rw [State.setPc_pc, if_pos (hc.2 hp), if_pos hp, BitVec.toNat_add]
    rfl
  · rw [State.setPc_pc, if_neg (mt hc.1 hp), if_neg hp]

/-- Below full depth a push succeeds. -/
theorem State.exists_push? {s : State} (w : Word) (h : s.sp.val < 1024) : ∃ t, s.push? w = some t :=
  Option.ne_none_iff_exists'.1 fun hnone => Nat.ne_of_lt h (State.push?_eq_none.1 hnone)

/-- Above depth 0 a pop succeeds. -/
theorem State.exists_pop? {s : State} (h : 0 < s.sp.val) : ∃ w t, s.pop? = some (w, t) := by
  obtain ⟨⟨w, t⟩, hpop⟩ := Option.ne_none_iff_exists'.1 fun hnone => Nat.ne_of_gt h (State.pop?_eq_none.1 hnone)
  exact ⟨w, t, hpop⟩

/-- What a push leaves in each entry of the stack. -/
theorem State.stack_push? {s t : State} {w : Word} (h : s.push? w = some t) (k : Nat) (hk : k < 1024) :
    t.stack[k] = if k = s.sp.val then w else s.stack[k] := by
  obtain ⟨_, _, rfl⟩ := State.push?_eq_some h
  simp only [Vector.getElem_set, eq_comm]

theorem State.sp_push? {s t : State} {w : Word} (h : s.push? w = some t) : t.sp.val = s.sp.val + 1 := by
  obtain ⟨_, _, rfl⟩ := State.push?_eq_some h
  rfl

theorem State.sp_pop? {s t : State} {w : Word} (h : s.pop? = some (w, t)) : t.sp.val + 1 = s.sp.val := by
  obtain ⟨_, _, hpos, _, rfl⟩ := State.pop?_eq_some h
  exact Nat.sub_add_cancel hpos

theorem exec_call_of_push? {s t : State} {nnn : Addr12} (h : s.push? s.pc = some t) :
    exec (.call nnn) s = .next (t.setPc (zextAddr nnn)) := by
  simp only [exec, execCall, h]

theorem exec_call_full {s : State} {nnn : Addr12} (h : s.sp.val = 1024) :
    exec (.call nnn) s = .next (s.halted .stackOverflow) := by
  simp only [exec, execCall, State.push?_eq_none.2 h, State.raise_eq]

theorem exec_ret_of_pop? {s t : State} {w : Word} (h : s.pop? = some (w, t)) : exec .ret s = .next (t.setPc w) := by
  simp only [exec, execRet, h]

theorem exec_ret_empty {s : State} (h : s.sp.val = 0) : exec .ret s = .next (s.halted .stackUnderflow) := by
  simp only [exec, execRet, State.pop?_eq_none.2 h, State.raise_eq]

/-- Settles O28: each of the four instructions is a skip on its own condition. -/
theorem skipsAdvanceExactlyWhenTheirConditionHolds : Obligations.SkipsAdvanceExactlyWhenTheirConditionHolds := by
  unfold Obligations.SkipsAdvanceExactlyWhenTheirConditionHolds
  intro x y nn s
  have hskip {p : Prop} [Decidable p] := s.skipIf_effect (decide_eq_true_iff (p := p))
  exact ⟨⟨_, rfl, hskip⟩, ⟨_, rfl, hskip⟩, ⟨_, rfl, hskip⟩, ⟨_, rfl, hskip⟩⟩

/-- Settles O29: below full depth the push succeeds and is followed by the write of `pc`; at full depth it fails. -/
theorem callPushesTheNextAddressAndJumps : Obligations.CallPushesTheNextAddressAndJumps := by
  unfold Obligations.CallPushesTheNextAddressAndJumps
  intro nnn s
  refine ⟨fun hroom => ?pushed, exec_call_full⟩
  obtain ⟨t, hpush⟩ := State.exists_push? s.pc hroom
  refine ⟨t.setPc (zextAddr nnn), exec_call_of_push? hpush, ?entry, fun k hk hne => ?others,
    State.sp_push? (t := t) hpush, toNat_zextAddr nnn,
    State.unchangedBut_push?_setPc hpush _⟩
  case entry => exact (State.stack_push? hpush _ hroom).trans (if_pos rfl)
  case others => exact (State.stack_push? hpush k hk).trans (if_neg hne)

/-- Settles O30: above depth 0 the pop succeeds and its entry is written to `pc`; at depth 0 it fails. -/
theorem returnPopsTheStackIntoPc : Obligations.ReturnPopsTheStackIntoPc := by
  unfold Obligations.ReturnPopsTheStackIntoPc
  intro s
  refine ⟨fun hpos => ?popped, exec_ret_empty⟩
  obtain ⟨w, t, hpop⟩ := State.exists_pop? hpos
  obtain ⟨_, _, _, hentry, _⟩ := State.pop?_eq_some hpop
  exact ⟨t.setPc w, exec_ret_of_pop? hpop, hentry, State.sp_pop? (t := t) hpop,
    State.unchangedBut_pop?_setPc hpop w⟩

/-- Settles O32: the instruction is one write of `pc`. -/
theorem jumpSetsPcToTheAddress : Obligations.JumpSetsPcToTheAddress := by
  unfold Obligations.JumpSetsPcToTheAddress
  intro nnn s
  exact ⟨s.setPc (zextAddr nnn), rfl, toNat_zextAddr nnn, s.unchangedBut_setPc _⟩

end Sys2Proof.Machine
end

section
/-! PROOFS. The clear (spec/43_display.md R170): the frame of a new display that the presenter is told of, and `00E0` from
it. -/

namespace Sys2Proof.Machine

/-- A new display followed by an event changes the pixels and what was emitted, and nothing else. -/
theorem State.unchangedBut_setFb_emit (s : State) (d : Display) (o : Output) :
    s.UnchangedBut ((s.setFb d).emit o) [.display, .emitted] := by
  intro p hp
  cases p with
  | display | emitted => exact absurd (by decide) hp
  | mem | regs => exact fun _ => rfl
  | random => exact ⟨rfl, rfl⟩
  | index | pc | stack | sp | delay | sound | run | fault | keyHeld | keyEvent | schedule => rfl

/-- Settles O37: the instruction writes the clear display and emits its event, whatever the display was before. -/
theorem clearTurnsEveryPixelOff : Obligations.ClearTurnsEveryPixelOff := by
  unfold Obligations.ClearTurnsEveryPixelOff
  intro s
  exact ⟨(s.setFb Display.clear).emit .fbUpdated, rfl, Display.pixel_clear, rfl,
    s.unchangedBut_setFb_emit Display.clear .fbUpdated⟩

end Sys2Proof.Machine
end

section
/-! PROOFS. The ticker's turn (spec/60_exceptions.md R236): the frame of a move dropped from the schedule and of a tick,
what the turn is in each run state, and the tick of a running machine from these. -/

namespace Sys2Proof.Machine

theorem State.unchangedBut_dropMove (s : State) : s.UnchangedBut s.dropMove [.schedule] := by
  intro p hp
  cases p with
  | schedule => exact absurd List.mem_cons_self hp
  | mem | regs | display => exact fun _ => rfl
  | random => exact ⟨rfl, rfl⟩
  | index | pc | stack | sp | delay | sound | run | fault | keyHeld | keyEvent | emitted => rfl

theorem State.unchangedBut_tick (s : State) : s.UnchangedBut s.tick [.delay, .sound, .emitted] := by
  intro p hp
  cases p with
  | delay | sound | emitted => exact absurd (by decide) hp
  | mem | regs | display => exact fun _ => rfl
  | random => exact ⟨rfl, rfl⟩
  | index | pc | stack | sp | run | fault | keyHeld | keyEvent | schedule => rfl

/-- A frame over some pieces is one over more pieces. -/
theorem State.UnchangedBut.mono {s t : State} {parts more : List Part} (h : s.UnchangedBut t parts)
    (hsub : parts ⊆ more) : s.UnchangedBut t more :=
  fun p hp => h p fun hmem => hp (hsub hmem)

/-- In `RUNNING` a step whose next move is `tick` is a tick. -/
theorem step_of_tick_running {s : State} (hm : s.nextMove = .tick) (hr : s.run = .running) :
    step s = .next s.dropMove.tick :=
  (step_of_nextMove hm).trans (congrArg Host.Outcome.next (if_pos hr))

/-- Outside `RUNNING` a step whose next move is `tick` only drops the move (R238). -/
theorem step_of_tick_not_running {s : State} (hm : s.nextMove = .tick) (hr : s.run ≠ .running) :
    step s = .next s.dropMove :=
  (step_of_nextMove hm).trans (congrArg Host.Outcome.next (if_neg hr))

/-- Settles O52: in `RUNNING` the step is the dropped move and then a tick, whose frames compose; in any other run state it
is the dropped move alone. -/
theorem aTickCountsEachNonzeroTimerDown : Obligations.ATickCountsEachNonzeroTimerDown := by
  unfold Obligations.ATickCountsEachNonzeroTimerDown
  intro s hm
  constructor
  · intro hr
    refine ⟨s.dropMove.tick, step_of_tick_running hm hr, toNat_decrementIfPositive s.st,
      toNat_decrementIfPositive s.dt, rfl, ?frame⟩
    have hdrop := s.unchangedBut_dropMove.mono (more := [.delay, .sound, .emitted, .schedule]) (by decide)
    exact hdrop.trans (s.dropMove.unchangedBut_tick.mono (by decide))
  · intro hr t h
    cases (step_of_tick_not_running hm hr).symm.trans h
    exact s.unchangedBut_dropMove

end Sys2Proof.Machine
end

section
/-! PROOFS. Decoder and encoder (spec/30_encoding.md): a word fits an instruction's row of R99 exactly when the decoder
reads that instruction from it, with the fields of the word. -/

namespace Sys2Proof

/-! ### What it says of a word to fit a row's mask and match -/

theorem class_of_mask {w r : Word} (h : w &&& 0xF000#16 = r) : slice w 15 12 = r.toNat / 0x1000 := by
  rw [slice_class, ← h, toNat_and_mask w (k := 0) (by decide) rfl]
  omega

theorem nibble_of_mask {w r : Word} (h : w &&& 0xF00F#16 = r) :
    slice w 15 12 = r.toNat / 0x1000 ∧ fieldN w = r.toNat % 0x10 := by
  rw [slice_class, fieldN_eq, ← h, toNat_and_mask w (k := 4) (by decide) rfl]
  omega

theorem byte_of_mask {w r : Word} (h : w &&& 0xF0FF#16 = r) :
    slice w 15 12 = r.toNat / 0x1000 ∧ slice w 7 0 = r.toNat % 0x100 := by
  rw [slice_class, slice_low, ← h, toNat_and_mask w (k := 8) (by decide) rfl]
  omega

/-- The mask of the two whole words keeps the word. -/
theorem and_whole (w : Word) : w &&& 0xFFFF#16 = w := BitVec.and_allOnes

/-! ### A word rebuilt from its fields -/

theorem wordNNN_fieldNNN {w : Word} {c : Nat} (h : slice w 15 12 = c) : wordNNN c (fieldNNN w) = w := by
  have hw := w.isLt
  rw [slice_class] at h
  apply BitVec.eq_of_toNat_eq
  rw [toNat_wordNNN (by omega), toNat_fieldNNN]
  omega

theorem wordXNN_fields {w : Word} {c nn : Nat} (h : slice w 15 12 = c) (hn : slice w 7 0 = nn) :
    wordXNN c (fieldX w) nn = w := by
  have hw := w.isLt
  rw [slice_class] at h
  rw [slice_low] at hn
  apply BitVec.eq_of_toNat_eq
  rw [toNat_wordXNN (by omega) _ (by omega), val_fieldX]
  omega

theorem wordXYN_fields {w : Word} {c n : Nat} (h : slice w 15 12 = c) (hn : fieldN w = n) :
    wordXYN c (fieldX w) (fieldY w) n = w := by
  have hw := w.isLt
  rw [slice_class] at h
  rw [fieldN_eq] at hn
  apply BitVec.eq_of_toNat_eq
  rw [toNat_wordXYN (by omega) _ _ (by omega), val_fieldX, val_fieldY]
  omega

theorem slice_low_eq_fieldNN (w : Word) : slice w 7 0 = (fieldNN w).toNat := by
  rw [slice_low, toNat_fieldNN]

/-- The mask that clears the nibble `Y` keeps the high byte and the low nibble. -/
theorem and_clearY_eq (w : Word) : w &&& 0xFF0F#16 = w >>> 8 <<< 8 ||| w &&& 0xF#16 := by
  ext j hj
  interval_cases j <;> simp

theorem toNat_and_clearY (w : Word) : (w &&& 0xFF0F#16).toNat = w.toNat / 0x100 * 0x100 + w.toNat % 0x10 := by
  have hw := w.isLt
  have hlow : (w &&& 0xF#16).toNat = w.toNat % 2 ^ 4 := Nat.and_two_pow_sub_one_eq_mod w.toNat 4
  have hhigh : (w >>> 8 <<< 8).toNat = (w.toNat / 2 ^ 8) <<< 8 := by
    rw [BitVec.toNat_shiftLeft, BitVec.toNat_ushiftRight, Nat.shiftRight_eq_div_pow, Nat.shiftLeft_eq]
    omega
  rw [and_clearY_eq, BitVec.toNat_or, hhigh, hlow, ← Nat.shiftLeft_add_eq_or_of_lt (by omega), Nat.shiftLeft_eq]
  omega

/-- A word rebuilt without its nibble `Y`, as the shifts are encoded (R103). -/
theorem wordXYN_fieldX_zero {w : Word} {c n : Nat} (h : slice w 15 12 = c) (hn : fieldN w = n) :
    wordXYN c (fieldX w) 0 n = w &&& 0xFF0F#16 := by
  have hw := w.isLt
  rw [slice_class] at h
  rw [fieldN_eq] at hn
  apply BitVec.eq_of_toNat_eq
  rw [toNat_wordXYN (by omega) _ _ (by omega), val_fieldX, toNat_and_clearY, Fin.val_zero]
  omega

/-! ### The decoder by rows -/

/-- The instruction of the same row with the fields of a word. -/
def Instr.withFields (i : Instr) (w : Word) : Instr :=
  match i with
  | .cls => .cls
  | .ret => .ret
  | .jp _ => .jp (fieldNNN w)
  | .call _ => .call (fieldNNN w)
  | .seImm _ _ => .seImm (fieldX w) (fieldNN w)
  | .sneImm _ _ => .sneImm (fieldX w) (fieldNN w)
  | .seReg _ _ => .seReg (fieldX w) (fieldY w)
  | .ldImm _ _ => .ldImm (fieldX w) (fieldNN w)
  | .addImm _ _ => .addImm (fieldX w) (fieldNN w)
  | .ldReg _ _ => .ldReg (fieldX w) (fieldY w)
  | .orReg _ _ => .orReg (fieldX w) (fieldY w)
  | .andReg _ _ => .andReg (fieldX w) (fieldY w)
  | .xorReg _ _ => .xorReg (fieldX w) (fieldY w)
  | .addReg _ _ => .addReg (fieldX w) (fieldY w)
  | .subReg _ _ => .subReg (fieldX w) (fieldY w)
  | .shr _ => .shr (fieldX w)
  | .subn _ _ => .subn (fieldX w) (fieldY w)
  | .shl _ => .shl (fieldX w)
  | .sneReg _ _ => .sneReg (fieldX w) (fieldY w)
  | .ldI _ => .ldI (fieldNNN w)
  | .jpV0 _ => .jpV0 (fieldNNN w)
  | .rnd _ _ => .rnd (fieldX w) (fieldNN w)
  | .drw _ _ _ => .drw (fieldX w) (fieldY w) (fieldN w)
  | .skp _ => .skp (fieldX w)
  | .sknp _ => .sknp (fieldX w)
  | .ldVxDt _ => .ldVxDt (fieldX w)
  | .ldVxK _ => .ldVxK (fieldX w)
  | .ldDtVx _ => .ldDtVx (fieldX w)
  | .ldStVx _ => .ldStVx (fieldX w)
  | .addI _ => .addI (fieldX w)
  | .ldF _ => .ldF (fieldX w)
  | .ldB _ => .ldB (fieldX w)
  | .dump _ => .dump (fieldX w)
  | .load _ => .load (fieldX w)

theorem rowOf_withFields (i : Instr) (w : Word) : rowOf (i.withFields w) = rowOf i := by
  cases i <;> rfl

/-- A word that fits an instruction's row decodes to the instruction of that row with the word's fields. -/
theorem decode_of_fits {w : Word} {i : Instr} (h : w &&& (rowOf i).1 = (rowOf i).2) :
    decode w = some (i.withFields w) := by
  cases i with
  | cls | ret =>
    rw [show w = _ from (and_whole w).symm.trans h]
    decide
  | jp | call | seImm | sneImm | ldImm | addImm | ldI | jpV0 | rnd | drw =>
    have hclass := class_of_mask h
    simp [decode, hclass, rowOf, Instr.withFields]
  | seReg | sneReg =>
    obtain ⟨hclass, hnibble⟩ := nibble_of_mask h
    simp [decode, hclass, hnibble, rowOf, Instr.withFields]
  | ldReg | orReg | andReg | xorReg | addReg | subReg | shr | subn | shl =>
    obtain ⟨hclass, hnibble⟩ := nibble_of_mask h
    simp [decode, decodeClass8, hclass, hnibble, rowOf, Instr.withFields]
  | skp | sknp =>
    obtain ⟨hclass, hlow⟩ := byte_of_mask h
    simp [decode, decodeClassE, hclass, hlow, rowOf, Instr.withFields]
  | ldVxDt | ldVxK | ldDtVx | ldStVx | addI | ldF | ldB | dump | load =>
    obtain ⟨hclass, hlow⟩ := byte_of_mask h
    simp [decode, decodeClassF, hclass, hlow, rowOf, Instr.withFields]

/-- What the decoder reads from class 0 fits its row, and has the word's fields; likewise from the classes below. -/
theorem decodeClass0_eq_some {w : Word} {i : Instr} (h : decodeClass0 w = some i) :
    w &&& (rowOf i).1 = (rowOf i).2 ∧ i.withFields w = i := by
  unfold decodeClass0 at h
  split at h <;> cases h <;> rename_i hw
  all_goals exact ⟨(and_whole w).trans (BitVec.eq_of_toNat_eq hw), rfl⟩

theorem decodeClass8_eq_some {w : Word} {i : Instr} (hclass : slice w 15 12 = 0x8) (h : decodeClass8 w = some i) :
    w &&& (rowOf i).1 = (rowOf i).2 ∧ i.withFields w = i := by
  unfold decodeClass8 at h
  split at h <;> cases h <;> rename_i hnibble
  all_goals exact ⟨mask_nibble hclass hnibble, rfl⟩

theorem decodeClassE_eq_some {w : Word} {i : Instr} (hclass : slice w 15 12 = 0xE) (h : decodeClassE w = some i) :
    w &&& (rowOf i).1 = (rowOf i).2 ∧ i.withFields w = i := by
  unfold decodeClassE at h
  split at h <;> cases h <;> rename_i hlow
  all_goals exact ⟨mask_byte hclass hlow, rfl⟩

theorem decodeClassF_eq_some {w : Word} {i : Instr} (hclass : slice w 15 12 = 0xF) (h : decodeClassF w = some i) :
    w &&& (rowOf i).1 = (rowOf i).2 ∧ i.withFields w = i := by
  unfold decodeClassF at h
  split at h <;> cases h <;> rename_i hlow
  all_goals exact ⟨mask_byte hclass hlow, rfl⟩

/-- What the decoder reads from a word is of a row that the word fits, and has the word's fields. -/
theorem decode_eq_some {w : Word} {i : Instr} (h : decode w = some i) :
    w &&& (rowOf i).1 = (rowOf i).2 ∧ i.withFields w = i := by
  unfold decode at h
  split at h
  case h_1 => exact decodeClass0_eq_some h
  case h_9 => exact decodeClass8_eq_some ‹_› h
  case h_15 => exact decodeClassE_eq_some ‹_› h
  case h_16 => exact decodeClassF_eq_some ‹_› h
  case h_17 => cases h
  case h_6 | h_10 =>
    split at h <;> cases h
    exact ⟨mask_nibble ‹_› ‹_›, rfl⟩
  all_goals
    cases h
    exact ⟨mask_class ‹_›, rfl⟩

/-- A well-formed instruction's own word has its fields. -/
theorem withFields_encode {i : Instr} (h : i.wellFormed = true) : i.withFields (encode i) = i := by
  cases i with
  | cls | ret => rfl
  | jp | call | ldI | jpV0 => simp [Instr.withFields, encode, fieldNNN_wordNNN]
  | seImm x nn | sneImm x nn | ldImm x nn | addImm x nn | rnd x nn =>
    simp [Instr.withFields, encode, fieldX_wordXNN (hn := nn.isLt), fieldNN_wordXNN]
  | seReg | ldReg | orReg | andReg | xorReg | addReg | subReg | subn | sneReg | shr | shl =>
    simp [Instr.withFields, encode, fieldX_wordXYN, fieldY_wordXYN]
  | drw x y n =>
    have hn : n < 16 := by simpa [Instr.wellFormed] using h
    simp [Instr.withFields, encode, fieldX_wordXYN, fieldY_wordXYN, fieldN_wordXYN, hn]
  | skp | sknp | ldVxDt | ldVxK | ldDtVx | ldStVx | addI | ldF | ldB | dump | load =>
    simp [Instr.withFields, encode, fieldX_wordXNN]

/-- An instruction with the fields of a word of its row is well-formed. -/
theorem wellFormed_withFields (i : Instr) (w : Word) : (i.withFields w).wellFormed = true := by
  cases i with
  | drw =>
    have hn : fieldN w < 16 := by
      rw [fieldN_eq]
      exact Nat.mod_lt _ (by decide)
    simpa [Instr.withFields, Instr.wellFormed] using hn
  | _ => rfl

/-- What a word is encoded as after it was decoded: itself, but for the shifts' ignored nibble (R103). -/
def reencoded (w : Word) : Instr → Word
  | .shr _ | .shl _ => w &&& 0xFF0F#16
  | _ => w

/-- The fields of a word of an instruction's row, encoded again. -/
theorem encode_withFields {w : Word} {i : Instr} (h : w &&& (rowOf i).1 = (rowOf i).2) :
    encode (i.withFields w) = reencoded w i := by
  cases i with
  | cls | ret => exact h.symm.trans (and_whole w)
  | jp | call | ldI | jpV0 =>
    have hword := wordNNN_fieldNNN (class_of_mask h)
    simpa [rowOf, encode, Instr.withFields, reencoded] using hword
  | seImm | sneImm | ldImm | addImm | rnd =>
    have hword := wordXNN_fields (class_of_mask h) (slice_low_eq_fieldNN w)
    simpa [rowOf, encode, Instr.withFields, reencoded] using hword
  | drw =>
    have hword := wordXYN_fields (class_of_mask h) rfl
    simpa [rowOf, encode, Instr.withFields, reencoded] using hword
  | seReg | ldReg | orReg | andReg | xorReg | addReg | subReg | subn | sneReg =>
    obtain ⟨hclass, hnibble⟩ := nibble_of_mask h
    have hword := wordXYN_fields hclass hnibble
    simpa [rowOf, encode, Instr.withFields, reencoded] using hword
  | shr | shl =>
    obtain ⟨hclass, hnibble⟩ := nibble_of_mask h
    have hword := wordXYN_fieldX_zero hclass hnibble
    simpa [rowOf, encode, Instr.withFields, reencoded] using hword
  | skp | sknp | ldVxDt | ldVxK | ldDtVx | ldStVx | addI | ldF | ldB | dump | load =>
    obtain ⟨hclass, hlow⟩ := byte_of_mask h
    have hword := wordXNN_fields hclass hlow
    simpa [rowOf, encode, Instr.withFields, reencoded] using hword

/-- The word of every well-formed instruction fits its row. -/
theorem encode_fits : (i : Instr) → Laws.WordOnItsRow.Statement i
  | .cls => Laws.WordOnItsRow.cls
  | .ret => Laws.WordOnItsRow.ret
  | .jp nnn => Laws.WordOnItsRow.jp nnn
  | .call nnn => Laws.WordOnItsRow.call nnn
  | .seImm x nn => Laws.WordOnItsRow.seImm x nn
  | .sneImm x nn => Laws.WordOnItsRow.sneImm x nn
  | .seReg x y => Laws.WordOnItsRow.seReg x y
  | .ldImm x nn => Laws.WordOnItsRow.ldImm x nn
  | .addImm x nn => Laws.WordOnItsRow.addImm x nn
  | .ldReg x y => Laws.WordOnItsRow.ldReg x y
  | .orReg x y => Laws.WordOnItsRow.orReg x y
  | .andReg x y => Laws.WordOnItsRow.andReg x y
  | .xorReg x y => Laws.WordOnItsRow.xorReg x y
  | .addReg x y => Laws.WordOnItsRow.addReg x y
  | .subReg x y => Laws.WordOnItsRow.subReg x y
  | .shr x => Laws.WordOnItsRow.shr x
  | .subn x y => Laws.WordOnItsRow.subn x y
  | .shl x => Laws.WordOnItsRow.shl x
  | .sneReg x y => Laws.WordOnItsRow.sneReg x y
  | .ldI nnn => Laws.WordOnItsRow.ldI nnn
  | .jpV0 nnn => Laws.WordOnItsRow.jpV0 nnn
  | .rnd x nn => Laws.WordOnItsRow.rnd x nn
  | .drw x y n => Laws.WordOnItsRow.drw x y n
  | .skp x => Laws.WordOnItsRow.skp x
  | .sknp x => Laws.WordOnItsRow.sknp x
  | .ldVxDt x => Laws.WordOnItsRow.ldVxDt x
  | .ldVxK x => Laws.WordOnItsRow.ldVxK x
  | .ldDtVx x => Laws.WordOnItsRow.ldDtVx x
  | .ldStVx x => Laws.WordOnItsRow.ldStVx x
  | .addI x => Laws.WordOnItsRow.addI x
  | .ldF x => Laws.WordOnItsRow.ldF x
  | .ldB x => Laws.WordOnItsRow.ldB x
  | .dump x => Laws.WordOnItsRow.dump x
  | .load x => Laws.WordOnItsRow.load x

/-- Settles O1: an instruction's own word fits its row and has its fields, so it decodes to it; the two bytes make up
that word. -/
theorem decodingAnEncodedInstructionGivesItBack : Obligations.DecodingAnEncodedInstructionGivesItBack := by
  unfold Obligations.DecodingAnEncodedInstructionGivesItBack
  intro i hwf
  have hdecode : decode (encode i) = some i :=
    (decode_of_fits (encode_fits i hwf)).trans (congrArg some (withFields_encode hwf))
  refine ⟨hdecode, fun rest => ?_⟩
  simp only [encodeBytes, List.cons_append, List.nil_append, decodeBytes, wordOfBytes_high_low, hdecode]

/-- Settles O2: what is read from a word has the word's fields, and these make up the word again. -/
theorem encodingADecodedWordGivesItBackButForTheShiftsY :
    Obligations.EncodingADecodedWordGivesItBackButForTheShiftsY := by
  unfold Obligations.EncodingADecodedWordGivesItBackButForTheShiftsY
  intro w i h
  obtain ⟨hfits, hfields⟩ := decode_eq_some h
  have hword : encode i = reencoded w i := (congrArg encode hfields).symm.trans (encode_withFields hfits)
  exact ⟨hfields ▸ wellFormed_withFields i w, hword⟩

/-- Settles O4: a decoded word fits its instruction's row, and a word that fits a row decodes to one of it. -/
theorem aWordIsDecodedByItsOnlyOpcodeRow : Obligations.AWordIsDecodedByItsOnlyOpcodeRow := by
  unfold Obligations.AWordIsDecodedByItsOnlyOpcodeRow
  intro w i
  exact ⟨fun h => (decode_eq_some h).1, fun h => ⟨i.withFields w, decode_of_fits h, rowOf_withFields i w⟩⟩

/-! ### The unknown words -/

theorem decodeClass0_eq_none {w : Word} : decodeClass0 w = none ↔ w.toNat ≠ 0x00E0 ∧ w.toNat ≠ 0x00EE := by
  unfold decodeClass0
  split <;> simp_all

theorem decodeClass8_eq_none {w : Word} :
    decodeClass8 w = none ↔ fieldN w ∈ [0x8, 0x9, 0xA, 0xB, 0xC, 0xD, 0xF] := by
  have hn : fieldN w < 16 := by
    rw [fieldN_eq]
    exact Nat.mod_lt _ (by decide)
  unfold decodeClass8
  generalize fieldN w = n at hn ⊢
  interval_cases n <;> simp

theorem decodeClassE_eq_none {w : Word} : decodeClassE w = none ↔ slice w 7 0 ∉ [0x9E, 0xA1] := by
  unfold decodeClassE
  split <;> simp_all

theorem decodeClassF_eq_none {w : Word} :
    decodeClassF w = none ↔ slice w 7 0 ∉ [0x07, 0x0A, 0x15, 0x18, 0x1E, 0x29, 0x33, 0x55, 0x65] := by
  unfold decodeClassF
  split <;> simp_all

/-- The words that decode to nothing, class by class. -/
theorem decode_eq_none {w : Word} :
    decode w = none ↔
      (slice w 15 12 = 0x0 ∧ decodeClass0 w = none) ∨ (slice w 15 12 = 0x5 ∧ fieldN w ≠ 0) ∨
      (slice w 15 12 = 0x8 ∧ decodeClass8 w = none) ∨ (slice w 15 12 = 0x9 ∧ fieldN w ≠ 0) ∨
      (slice w 15 12 = 0xE ∧ decodeClassE w = none) ∨ (slice w 15 12 = 0xF ∧ decodeClassF w = none) := by
  have hclass : slice w 15 12 < 16 := Nat.mod_lt _ (by decide)
  unfold decode
  generalize slice w 15 12 = c at hclass ⊢
  interval_cases c <;> simp

/-- Settles O3: by the class of the word, each class's unknown words being those of its own decoder. -/
theorem theUnknownWordsAreTheListedOnes : Obligations.TheUnknownWordsAreTheListedOnes := by
  unfold Obligations.TheUnknownWordsAreTheListedOnes
  intro w
  have hclass0 : w.toNat / 0x1000 = 0x0 ↔ w.toNat < 0x1000 := by omega
  rw [decode_eq_none, decodeClass0_eq_none, decodeClass8_eq_none, decodeClassE_eq_none, decodeClassF_eq_none,
    slice_class, slice_low, fieldN_eq, hclass0]

/-- Settles O5: the decoder evaluated on the seven words. -/
theorem sampleWordsDecodeAsWritten : Obligations.SampleWordsDecodeAsWritten := by
  unfold Obligations.SampleWordsDecodeAsWritten
  decide

end Sys2Proof
end

section
/-! PROOFS. Frames: one way to prove them for every update of the state. -/

namespace Sys2Proof.Machine

/-- `s` with the listed pieces taken from `t`. -/
def State.taking (s t : State) (parts : List Part) : State where
  mem := if .mem ∈ parts then t.mem else s.mem
  v := if .regs ∈ parts then t.v else s.v
  i := if .index ∈ parts then t.i else s.i
  pc := if .pc ∈ parts then t.pc else s.pc
  stack := if .stack ∈ parts then t.stack else s.stack
  sp := if .sp ∈ parts then t.sp else s.sp
  dt := if .delay ∈ parts then t.dt else s.dt
  st := if .sound ∈ parts then t.st else s.st
  fb := if .display ∈ parts then t.fb else s.fb
  run := if .run ∈ parts then t.run else s.run
  fault := if .fault ∈ parts then t.fault else s.fault
  keyHeld := if .keyHeld ∈ parts then t.keyHeld else s.keyHeld
  keyEvent := if .keyEvent ∈ parts then t.keyEvent else s.keyEvent
  rndQueue := if .random ∈ parts then t.rndQueue else s.rndQueue
  rndCount := if .random ∈ parts then t.rndCount else s.rndCount
  emitted := if .emitted ∈ parts then t.emitted else s.emitted
  schedule := if .schedule ∈ parts then t.schedule else s.schedule

theorem State.unchangedBut_taking (s t : State) (parts : List Part) : s.UnchangedBut (s.taking t parts) parts := by
  intro p hp
  cases p with
  | mem | regs | display => simp [State.sameOn, State.taking, State.reg, hp]
  | random => exact ⟨if_neg hp, if_neg hp⟩
  | index | pc | stack | sp | delay | sound | run | fault | keyHeld | keyEvent | emitted | schedule => exact if_neg hp

/-- A state that differs from `s` in the listed pieces only; for an update of the listed fields `rfl` shows it. -/
theorem State.UnchangedBut.of_taking {s t : State} {parts : List Part} (h : s.taking t parts = t) :
    s.UnchangedBut t parts :=
  h ▸ s.unchangedBut_taking t parts

theorem State.UnchangedBut.refl (s : State) (parts : List Part) : s.UnchangedBut s parts :=
  (State.UnchangedBut.of_taking (parts := []) rfl).mono (List.nil_subset _)

end Sys2Proof.Machine
end

section
/-! PROOFS. What one instruction can do, said once: when it faults and with which cause, and which pieces of the state it
writes when it does not (spec/60_exceptions.md R222 to R229, spec/10_state.md). -/

namespace Sys2Proof.Machine

theorem State.storeRun_inside {s : State} {bs : List Byte} (h : s.i.toNat + bs.length ≤ 4096) :
    s.storeRun bs = .next (s.setMem (s.mem.writeBytes s.i.toNat bs)) := by
  simp only [State.storeRun, State.base, checkRun_eq_none.2 (.inr h)]

theorem State.storeRun_outside {s : State} {bs : List Byte} (hne : bs.length ≠ 0) (h : 4096 < s.i.toNat + bs.length) :
    s.storeRun bs = .next (s.halted (.memoryOutOfBounds (max s.i.toNat 4096))) := by
  simp only [State.storeRun, State.base, checkRun_eq_some.2 ⟨hne, h, rfl⟩, State.raise_eq]

/-- The state after a draw: the display with the sprite blitted onto it, the flag, the event. -/
def State.drawn (s : State) (x y : Reg) (n : Nat) : State :=
  ((s.setFb (blit s.fb (s.sprite x y n)).1).setFlag (blit s.fb (s.sprite x y n)).2).emit .fbUpdated

theorem exec_drw_inside {s : State} {x y : Reg} {n : Nat} (h : n = 0 ∨ s.i.toNat + n ≤ 4096) :
    exec (.drw x y n) s = .next (s.drawn x y n) := by
  simp only [exec, execDrw, State.base, checkRun_eq_none.2 h, State.drawn]

theorem exec_drw_outside {s : State} {x y : Reg} {n : Nat} (hne : n ≠ 0) (h : 4096 < s.i.toNat + n) :
    exec (.drw x y n) s = .next (s.halted (.memoryOutOfBounds (max s.i.toNat 4096))) := by
  simp only [exec, execDrw, State.base, checkRun_eq_some.2 ⟨hne, h, rfl⟩, State.raise_eq]

theorem exec_load_inside {s : State} {x : Reg} (h : s.i.toNat + x.val ≤ 4095) :
    exec (.load x) s = .next (s.loadRegs x s.i.toNat) := by
  simp only [exec, execLoad, State.base, checkRun_eq_none.2 (.inr (by omega : s.i.toNat + (x.val + 1) ≤ 4096))]

theorem exec_load_outside {s : State} {x : Reg} (h : 4095 < s.i.toNat + x.val) :
    exec (.load x) s = .next (s.halted (.memoryOutOfBounds (max s.i.toNat 4096))) := by
  simp only [exec, execLoad, State.base, State.raise_eq,
    checkRun_eq_some.2 ⟨Nat.succ_ne_zero _, (by omega : 4096 < s.i.toNat + (x.val + 1)), rfl⟩]

theorem exec_ldB_inside {s : State} {x : Reg} (h : s.i.toNat + 2 ≤ 4095) :
    exec (.ldB x) s = .next (s.setMem (s.mem.writeBytes s.i.toNat (bcdDigits (s.reg x)))) :=
  State.storeRun_inside (by rw [length_bcdDigits]; omega)

theorem exec_ldB_outside {s : State} {x : Reg} (h : 4095 < s.i.toNat + 2) :
    exec (.ldB x) s = .next (s.halted (.memoryOutOfBounds (max s.i.toNat 4096))) :=
  State.storeRun_outside (by rw [length_bcdDigits]; decide) (by rw [length_bcdDigits]; omega)

theorem exec_dump_inside {s : State} {x : Reg} (h : s.i.toNat + x.val ≤ 4095) :
    exec (.dump x) s = .next (s.setMem (s.mem.writeBytes s.i.toNat (s.regsUpTo x))) :=
  State.storeRun_inside (by rw [State.length_regsUpTo]; omega)

theorem exec_dump_outside {s : State} {x : Reg} (h : 4095 < s.i.toNat + x.val) :
    exec (.dump x) s = .next (s.halted (.memoryOutOfBounds (max s.i.toNat 4096))) :=
  State.storeRun_outside (by rw [State.length_regsUpTo]; omega) (by rw [State.length_regsUpTo]; omega)

/-- The fault of an instruction at the execute stage, if it has one (R222 to R224). -/
def executeFault (i : Instr) (s : State) : Option Fault :=
  match i with
  | .call _ => if s.sp.val = 1024 then some .stackOverflow else none
  | .ret => if s.sp.val = 0 then some .stackUnderflow else none
  | .drw _ _ n =>
    if n ≠ 0 ∧ 4095 < s.i.toNat + n - 1 then some (.memoryOutOfBounds (max s.i.toNat 4096)) else none
  | .ldB _ => if 4095 < s.i.toNat + 2 then some (.memoryOutOfBounds (max s.i.toNat 4096)) else none
  | .dump x | .load x =>
    if 4095 < s.i.toNat + x.val then some (.memoryOutOfBounds (max s.i.toNat 4096)) else none
  | _ => none

/-- The pieces of the state that an instruction writes when it does not fault. -/
def writtenBy : Instr → List Part
  | .cls => [.display, .emitted]
  | .call _ => [.stack, .sp, .pc]
  | .ret => [.sp, .pc]
  | .jp _ | .jpV0 _ | .seImm _ _ | .sneImm _ _ | .seReg _ _ | .sneReg _ _ | .skp _ | .sknp _ => [.pc]
  | .ldImm _ _ | .addImm _ _ | .ldReg _ _ | .orReg _ _ | .andReg _ _ | .xorReg _ _ | .addReg _ _ | .subReg _ _
  | .shr _ | .subn _ _ | .shl _ | .ldVxDt _ | .load _ => [.regs]
  | .ldI _ | .addI _ | .ldF _ => [.index]
  | .rnd _ _ => [.regs, .random]
  | .drw _ _ _ => [.display, .regs, .emitted]
  | .ldVxK _ => [.regs, .keyEvent, .pc]
  | .ldDtVx _ => [.delay]
  | .ldStVx _ => [.sound]
  | .ldB _ | .dump _ => [.mem]

/-- A faulting instruction changes the run state and the latch only (R227). -/
theorem exec_of_executeFault {i : Instr} {s : State} {f : Fault} (h : executeFault i s = some f) :
    exec i s = .next (s.halted f) := by
  cases i with
  | call =>
    obtain ⟨hfull, ⟨⟩⟩ := Option.ite_none_right_eq_some.1 h
    exact exec_call_full hfull
  | ret =>
    obtain ⟨hempty, ⟨⟩⟩ := Option.ite_none_right_eq_some.1 h
    exact exec_ret_empty hempty
  | drw =>
    obtain ⟨⟨hne, hout⟩, ⟨⟩⟩ := Option.ite_none_right_eq_some.1 h
    exact exec_drw_outside hne (by omega)
  | ldB =>
    obtain ⟨hout, ⟨⟩⟩ := Option.ite_none_right_eq_some.1 h
    exact exec_ldB_outside hout
  | dump =>
    obtain ⟨hout, ⟨⟩⟩ := Option.ite_none_right_eq_some.1 h
    exact exec_dump_outside hout
  | load =>
    obtain ⟨hout, ⟨⟩⟩ := Option.ite_none_right_eq_some.1 h
    exact exec_load_outside hout
  | _ => cases h

/-- An instruction without a fault answers a next state in which only what it writes may have changed. -/
theorem exec_of_executeFault_eq_none {i : Instr} {s : State} (h : executeFault i s = none) :
    ∃ t, exec i s = .next t ∧ s.UnchangedBut t (writtenBy i) := by
  cases i with
  | call nnn =>
    have hroom : s.sp.val < 1024 := lt_of_le_of_ne (Nat.le_of_lt_succ s.sp.isLt) (by simpa [executeFault] using h)
    obtain ⟨t, hpush⟩ := State.exists_push? s.pc hroom
    exact ⟨_, exec_call_of_push? hpush, State.unchangedBut_push?_setPc hpush _⟩
  | ret =>
    have hpos : 0 < s.sp.val := Nat.pos_of_ne_zero (by simpa [executeFault] using h)
    obtain ⟨w, t, hpop⟩ := State.exists_pop? hpos
    exact ⟨_, exec_ret_of_pop? hpop, State.unchangedBut_pop?_setPc hpop _⟩
  | drw x y n =>
    have hin : n = 0 ∨ s.i.toNat + n ≤ 4096 := by
      simp only [executeFault, ite_eq_right_iff, reduceCtorEq, imp_false] at h
      omega
    exact ⟨_, exec_drw_inside hin, .of_taking rfl⟩
  | ldB x =>
    have hin : s.i.toNat + 2 ≤ 4095 := by simpa [executeFault] using h
    exact ⟨_, exec_ldB_inside hin, .of_taking rfl⟩
  | dump x =>
    have hin : s.i.toNat + x.val ≤ 4095 := by simpa [executeFault] using h
    exact ⟨_, exec_dump_inside hin, .of_taking rfl⟩
  | load x =>
    have hin : s.i.toNat + x.val ≤ 4095 := by simpa [executeFault] using h
    exact ⟨_, exec_load_inside hin, .of_taking rfl⟩
  | seImm x nn | sneImm x nn | seReg x y | sneReg x y | skp x | sknp x =>
    exact ⟨_, rfl, by rw [State.skipIf_eq]; exact s.unchangedBut_setPc _⟩
  | rnd x nn => exact ⟨_, rfl, by rw [State.drawRandom_eq]; exact .of_taking rfl⟩
  | ldVxK x =>
    simp only [exec, execLdVxK]
    split <;> exact ⟨_, rfl, .of_taking rfl⟩
  | _ => exact ⟨_, rfl, .of_taking rfl⟩

/-- The two ways an instruction goes. -/
theorem exec_cases (i : Instr) (s : State) :
    (∃ f, executeFault i s = some f ∧ exec i s = .next (s.halted f)) ∨
      ∃ t, executeFault i s = none ∧ exec i s = .next t ∧ s.UnchangedBut t (writtenBy i) := by
  cases h : executeFault i s with
  | some f => exact .inl ⟨f, rfl, exec_of_executeFault h⟩
  | none =>
    obtain ⟨t, ht, hframe⟩ := exec_of_executeFault_eq_none h
    exact .inr ⟨t, rfl, ht, hframe⟩

theorem State.unchangedBut_halted (s : State) (f : Fault) : s.UnchangedBut (s.halted f) [.run, .fault] := .of_taking rfl

/-- Faulting or not, an instruction changes only what it writes, the run state and the latch. -/
theorem exec_unchangedBut {i : Instr} {s t : State} (h : exec i s = .next t) :
    s.UnchangedBut t (.run :: .fault :: writtenBy i) := by
  rcases exec_cases i s with ⟨f, -, hfault⟩ | ⟨u, -, hdone, hframe⟩
  · cases hfault.symm.trans h
    exact (s.unchangedBut_halted f).mono (by simp)
  · cases hdone.symm.trans h
    exact hframe.mono (by simp)

theorem exec_next (i : Instr) (s : State) : ∃ t, exec i s = .next t := by
  rcases exec_cases i s with ⟨f, -, hfault⟩ | ⟨t, -, hdone, -⟩
  · exact ⟨_, hfault⟩
  · exact ⟨t, hdone⟩

theorem run_not_mem_writtenBy (i : Instr) : .run ∉ writtenBy i := by cases i <;> simp [writtenBy]

theorem fault_not_mem_writtenBy (i : Instr) : .fault ∉ writtenBy i := by cases i <;> simp [writtenBy]

/-- Settles O14: a fault of the list is raised with nothing else changed, and without one the run state and the latch are
not among the pieces written. -/
theorem executionFaultsExactlyAsListedAndPrecisely : Obligations.ExecutionFaultsExactlyAsListedAndPrecisely := by
  unfold Obligations.ExecutionFaultsExactlyAsListedAndPrecisely
  intro i s
  show match executeFault i s with
    | some f => exec i s = .next (s.halted f)
    | none => ∃ t, exec i s = .next t ∧ s.sameOn t .run ∧ s.sameOn t .fault
  rcases exec_cases i s with ⟨f, hf, hfault⟩ | ⟨t, hf, hdone, hframe⟩ <;> rw [hf]
  · exact hfault
  · exact ⟨t, hdone, hframe _ (run_not_mem_writtenBy i), hframe _ (fault_not_mem_writtenBy i)⟩

/-! ### Who writes what -/

/-- A destination's write changes register 15 only when it is the destination. -/
theorem State.reg15_setReg (s : State) (x : Reg) (b : Byte) : x = 15 ∨ (s.setReg x b).reg 15 = s.reg 15 := by
  rw [State.reg_setReg]
  by_cases hx : x = 15
  · exact .inl hx
  · exact .inr (if_neg (Ne.symm hx))

/-- A flag writer leaves 0 or 1 in register 15, whatever its destination. -/
theorem State.reg15_setFlag (s : State) (f : Bool) : (s.setFlag f).reg 15 = 0 ∨ (s.setFlag f).reg 15 = 1 := by
  cases f
  · exact .inl (by rw [State.reg_setFlag]; rfl)
  · exact .inr (by rw [State.reg_setFlag]; rfl)

/-- An instruction that does not write the registers leaves them, whether it faults or not. -/
theorem exec_reg {i : Instr} {s t : State} (h : exec i s = .next t) (hregs : .regs ∉ writtenBy i) (r : Reg) :
    t.reg r = s.reg r :=
  exec_unchangedBut h .regs (by simp [hregs]) r

/-- A load that answers a next state has loaded the registers up to `x`, or has loaded none. -/
theorem exec_load_reg15 {s t : State} {x : Reg} (h : exec (.load x) s = .next t) : x = 15 ∨ t.reg 15 = s.reg 15 := by
  by_cases hin : s.i.toNat + x.val ≤ 4095
  · cases (exec_load_inside hin).symm.trans h
    by_cases hx : x = 15
    · exact .inl hx
    · exact .inr ((State.reg_loadRegs ..).trans (if_neg fun hle => hx (le_antisymm (Fin.le_last x) hle)))
  · cases (exec_load_outside (Nat.lt_of_not_le hin)).symm.trans h
    exact .inr rfl

/-- Settles O15: by the kind of write each instruction makes to the registers: a flag last, one destination, or none. -/
theorem onlyFlagWritersAndDestinationsChangeVF : Obligations.OnlyFlagWritersAndDestinationsChangeVF := by
  unfold Obligations.OnlyFlagWritersAndDestinationsChangeVF
  intro i s t h hrun
  cases i with
  | addImm | addReg | subReg | subn | shr | shl =>
    cases h
    exact State.reg15_setFlag _ _
  | drw x y n =>
    by_cases hin : n = 0 ∨ s.i.toNat + n ≤ 4096
    · cases (exec_drw_inside hin).symm.trans h
      exact State.reg15_setFlag _ _
    · cases (exec_drw_outside (by omega) (by omega)).symm.trans h
      exact absurd rfl hrun
  | ldImm | ldReg | orReg | andReg | xorReg | ldVxDt =>
    cases h
    exact s.reg15_setReg _ _
  | rnd x nn =>
    cases h
    rw [State.drawRandom_eq]
    exact State.reg15_setReg _ x _
  | ldVxK x =>
    simp only [exec, execLdVxK] at h
    split at h <;> cases h
    · exact s.reg15_setReg x _
    · exact .inr rfl
  | load => exact exec_load_reg15 h
  | _ => exact exec_reg h (by simp [writtenBy]) 15

theorem stack_mem_writtenBy {i : Instr} (h : .stack ∈ writtenBy i) : ∃ nnn, i = .call nnn := by
  cases i <;> simp [writtenBy] at h ⊢

theorem sp_mem_writtenBy {i : Instr} (h : .sp ∈ writtenBy i) : (∃ nnn, i = .call nnn) ∨ i = .ret := by
  cases i <;> simp [writtenBy] at h ⊢

theorem display_mem_writtenBy {i : Instr} (h : .display ∈ writtenBy i) : i = .cls ∨ ∃ x y n, i = .drw x y n := by
  cases i <;> simp [writtenBy] at h ⊢

theorem index_mem_writtenBy {i : Instr} (h : .index ∈ writtenBy i) :
    (∃ nnn, i = .ldI nnn) ∨ (∃ x, i = .addI x) ∨ ∃ x, i = .ldF x := by
  cases i <;> simp [writtenBy] at h ⊢

theorem mem_mem_writtenBy {i : Instr} (h : .mem ∈ writtenBy i) : (∃ x, i = .ldB x) ∨ ∃ x, i = .dump x := by
  cases i <;> simp [writtenBy] at h ⊢

theorem delay_mem_writtenBy {i : Instr} (h : .delay ∈ writtenBy i) : ∃ x, i = .ldDtVx x := by
  cases i <;> simp [writtenBy] at h ⊢

theorem sound_mem_writtenBy {i : Instr} (h : .sound ∈ writtenBy i) : ∃ x, i = .ldStVx x := by
  cases i <;> simp [writtenBy] at h ⊢

/-- A piece that an instruction changed, other than the run state and the latch, is one that it writes. -/
theorem exec_changed {i : Instr} {s t : State} (h : exec i s = .next t) {p : Part} (hrun : p ≠ .run)
    (hfault : p ≠ .fault) (hchanged : ¬ s.sameOn t p) : p ∈ writtenBy i := by
  by_contra hnot
  exact hchanged (exec_unchangedBut h p (by simp [hrun, hfault, hnot]))

/-- Settles O16: a changed piece is among those the instruction writes, and each piece has its few writers. -/
theorem eachPieceOfStateHasItsOwnWriters : Obligations.EachPieceOfStateHasItsOwnWriters := by
  unfold Obligations.EachPieceOfStateHasItsOwnWriters
  intro i s t h
  have hchanged {p : Part} := exec_changed (p := p) h
  refine ⟨fun hne => ?_, fun hne => ?_, fun ⟨p, hp⟩ => ?_, fun hne => ?_, fun ⟨a, ha⟩ => ?_, fun hne => ?_, fun hne => ?_⟩
  · exact stack_mem_writtenBy (hchanged nofun nofun hne)
  · exact sp_mem_writtenBy (hchanged nofun nofun hne)
  · exact display_mem_writtenBy (hchanged nofun nofun fun hsame => hp (hsame p))
  · exact index_mem_writtenBy (hchanged nofun nofun hne)
  · exact mem_mem_writtenBy (hchanged nofun nofun fun hsame => ha (hsame a))
  · exact delay_mem_writtenBy (hchanged nofun nofun hne)
  · exact sound_mem_writtenBy (hchanged nofun nofun hne)

end Sys2Proof.Machine
end

section
/-! PROOFS. What one move can do, said once: the moves that are not enabled do nothing, each other move writes its own
pieces, and the steps of the schedule follow (spec/00_scope.md R5 to R7, spec/60_exceptions.md, spec/70_reset_and_hazards.md). -/

namespace Sys2Proof.Machine

/-! ### The executor's turn -/

/-- What an instruction step leads to: a fault, before or after the advance of `pc`, or what the instruction answers. -/
theorem State.instructionStep_eq_next {s t : State} (h : s.instructionStep = .next t) :
    (∃ f, t = s.halted f) ∨ (∃ f, t = s.advance.halted f) ∨
      ∃ w i, s.fetch = .ok w ∧ decode w = some i ∧ exec i s.advance = .next t := by
  rcases s.instructionStep_cases with ⟨f, -, h'⟩ | ⟨w, -, -, h'⟩ | ⟨w, i, hf, hd, h'⟩
  · exact .inl ⟨f, State.raise_next (h'.symm.trans h)⟩
  · exact .inr (.inl ⟨_, State.raise_next (h'.symm.trans h)⟩)
  · exact .inr (.inr ⟨w, i, hf, hd, h'.symm.trans h⟩)

theorem State.instructionStep_next (s : State) : ∃ t, s.instructionStep = .next t := by
  rcases s.instructionStep_cases with ⟨f, -, h⟩ | ⟨w, -, -, h⟩ | ⟨w, i, -, -, h⟩
  · exact ⟨_, h⟩
  · exact ⟨_, h⟩
  · obtain ⟨t, ht⟩ := exec_next i s.advance
    exact ⟨t, h.trans ht⟩

/-- An instruction step changes the run state, the latch, `pc` and what its instruction writes, and nothing else. -/
theorem State.instructionStep_unchangedBut {s t : State} (h : s.instructionStep = .next t) :
    s.UnchangedBut t [.run, .fault, .pc] ∨
      ∃ w i, s.fetch = .ok w ∧ decode w = some i ∧ s.UnchangedBut t (.run :: .fault :: .pc :: writtenBy i) := by
  rcases State.instructionStep_eq_next h with ⟨f, rfl⟩ | ⟨f, rfl⟩ | ⟨w, i, hf, hd, hexec⟩
  · exact .inl (.of_taking rfl)
  · exact .inl (.of_taking rfl)
  · refine .inr ⟨w, i, hf, hd, ?_⟩
    have hadvance : s.UnchangedBut s.advance (.run :: .fault :: .pc :: writtenBy i) :=
      (s.unchangedBut_setPc _).mono (by simp)
    have hsub : writtenBy i ⊆ .pc :: writtenBy i := List.subset_cons_self _ _
    exact hadvance.trans ((exec_unchangedBut hexec).mono (List.cons_subset_cons _ (List.cons_subset_cons _ hsub)))

/-! ### Enabled moves and what they write -/

/-- The run states in which a move does something (R7, R226, R238, R242, R265). -/
def Move.enabledIn : Move → RunState → Prop
  | .execute, r | .tick, r | .keyPress _, r => r = .running
  | .installFont _, r | .load _, r | .start, r => r = .boot
  | .reset, _ | .setKey _ _, _ | .supplyRandom _, _ => True

/-- A move of the ticker or the host that is not enabled changes nothing. -/
theorem State.perform_of_not_enabled {s : State} {m : Move} (hm : m ≠ .execute) (h : ¬ m.enabledIn s.run) :
    s.perform m = .next s := by
  cases m with
  | execute => exact absurd rfl hm
  | tick | installFont | load | start => exact congrArg Host.Outcome.next (if_neg h)
  | keyPress k =>
    have hwaits : ¬ s.waitsForKey = true := fun hw => h ((State.waitsForKey_iff s).1 hw).1
    exact if_neg hwaits
  | reset | setKey | supplyRandom => exact absurd trivial h

/-- The pieces that a move of the ticker or the host writes; a reset may write any, a key press ends a wait. -/
def Move.writes : Move → List Part
  | .tick => [.delay, .sound, .emitted]
  | .installFont _ => [.mem]
  | .load _ => [.mem, .emitted]
  | .start => [.run]
  | .setKey _ _ => [.keyHeld]
  | .keyPress _ => [.regs, .pc, .keyEvent]
  | .supplyRandom _ => [.random]
  | .execute | .reset => []

/-- What a move of the ticker or the host other than a reset leaves as it was. -/
theorem State.perform_unchangedBut {s : State} {m : Move} (hx : m ≠ .execute) (hr : m ≠ .reset) :
    ∃ t, s.perform m = .next t ∧ s.UnchangedBut t m.writes := by
  by_cases he : m.enabledIn s.run
  · cases m with
    | execute => exact absurd rfl hx
    | reset => exact absurd rfl hr
    | tick => exact ⟨s.tick, congrArg _ (if_pos he), .of_taking rfl⟩
    | installFont => exact ⟨_, congrArg _ (if_pos he), .of_taking rfl⟩
    | start => exact ⟨_, congrArg _ (if_pos he), .of_taking rfl⟩
    | load bytes =>
      by_cases hsize : Config.progMax < bytes.length
      · exact ⟨_, congrArg _ ((if_pos he).trans (if_pos hsize)), .of_taking rfl⟩
      · exact ⟨_, congrArg _ ((if_pos he).trans (if_neg hsize)), .of_taking rfl⟩
    | setKey | supplyRandom => exact ⟨_, rfl, .of_taking rfl⟩
    | keyPress k =>
      rcases s.pressKey_cases k with ⟨hw, -⟩ | ⟨-, hdropped⟩
      · obtain ⟨hrun, w, x, hf, hd⟩ := (State.waitsForKey_iff s).1 hw
        exact ⟨_, State.pressKey_waiting hrun hf hd, .of_taking rfl⟩
      · exact ⟨s, hdropped, .refl s _⟩
  · exact ⟨s, State.perform_of_not_enabled hx he, .refl s _⟩

theorem State.unchangedBut_of_perform {s t : State} {m : Move} (h : s.perform m = .next t) (hx : m ≠ .execute)
    (hr : m ≠ .reset) : s.UnchangedBut t m.writes := by
  obtain ⟨u, hu, hframe⟩ := State.perform_unchangedBut (s := s) hx hr
  cases hu.symm.trans h
  exact hframe

theorem Orderly.refl (s : State) : Orderly s s := .of_eq rfl rfl rfl rfl rfl

/-- Every move is orderly, but for the two that change the run state by intent: a reset, and a start in `BOOT`. -/
theorem State.perform_orderly {s t : State} {m : Move} (h : s.perform m = .next t) (hreset : m ≠ .reset)
    (hstart : m = .start → s.run ≠ .boot) : Orderly s t := by
  cases m with
  | execute =>
    rcases s.executorStep_cases with ⟨-, h'⟩ | ⟨-, h'⟩ | ⟨f, -, -, h'⟩
    · exact State.instructionStep_orderly (h'.symm.trans h)
    · cases h'.symm.trans h
      exact .refl s
    · cases h'.symm.trans h
  | reset => exact absurd rfl hreset
  | start =>
    cases (State.perform_of_not_enabled (m := .start) nofun (hstart rfl)).symm.trans h
    exact .refl s
  | tick =>
    cases h
    unfold State.tickerStep
    split
    · exact .of_eq rfl rfl rfl rfl rfl
    · exact .refl s
  | installFont font =>
    cases h
    unfold State.installFont
    split
    · exact ⟨.inl ⟨rfl, rfl⟩, id, fun hw => Memory.writeBytes_wf hw (by simp), rfl⟩
    · exact .refl s
  | load bytes =>
    cases h
    unfold State.loadProgram
    split
    · split
      · exact .of_eq rfl rfl rfl rfl rfl
      · rename_i hsize
        exact ⟨.inl ⟨rfl, rfl⟩, id, fun hw => Memory.writeBytes_wf hw (by simp at hsize ⊢; omega), rfl⟩
    · exact .refl s
  | setKey | supplyRandom =>
    cases h
    exact .of_eq rfl rfl rfl rfl rfl
  | keyPress k =>
    rcases s.pressKey_cases k with ⟨hw, -⟩ | ⟨-, h'⟩
    · obtain ⟨hrun, w, x, hf, hd⟩ := (State.waitsForKey_iff s).1 hw
      cases (State.pressKey_waiting hrun hf hd).symm.trans h
      exact ⟨.inl ⟨rfl, rfl⟩, fun _ => rfl, id, rfl⟩
    · cases h'.symm.trans h
      exact .refl s

/-! ### Steps -/

theorem State.executorStep_boot {s : State} (h : s.run = .boot) : s.executorStep = .next s := by
  rw [State.executorStep, h]

theorem State.executorStep_halted {s : State} {f : Fault} (h : s.run = .halted) (hf : s.fault = some f) :
    s.executorStep = .fault f := by
  simp only [State.executorStep, h, hf]

/-- Settles O8: each of these moves is not enabled in the run states named, and the executor's turn has its own equation
in `BOOT` and in `HALTED`. -/
theorem movesThatAreNotEnabledChangeNothing : Obligations.MovesThatAreNotEnabledChangeNothing := by
  unfold Obligations.MovesThatAreNotEnabledChangeNothing
  intro s
  have hidle {m : Move} (hx : m ≠ .execute) (he : ¬ m.enabledIn s.run) (hm : s.nextMove = m) :
      step s = .next s.dropMove :=
    (step_of_nextMove hm).trans (State.perform_of_not_enabled hx he)
  exact ⟨fun hr hm => (step_of_execute hm).trans (State.executorStep_boot hr),
    fun f hr hf hm => (step_of_execute hm).trans (State.executorStep_halted hr hf),
    fun hr => hidle nofun hr, fun k hr => hidle nofun hr, fun font hr => hidle nofun hr,
    fun bytes hr => hidle nofun hr, fun hr => hidle nofun hr⟩

/-- Settles O7: the bounds check of the two bytes, on its three ranges of `pc`. -/
theorem aFetchIsBigEndianAndBounded : Obligations.AFetchIsBigEndianAndBounded := by
  unfold Obligations.AFetchIsBigEndianAndBounded
  intro s
  refine ⟨fun hin => ⟨_, State.fetch_inside (by omega), toNat_wordOfBytes ..⟩, fun hlast => ?_, fun hout => ?_⟩
  · rw [State.fetch_outside (by omega), hlast]
    rfl
  · rw [State.fetch_outside (by omega), Nat.max_eq_left (by omega)]

/-- Settles O11: an instruction step and every move of the ticker or the host answer a next state; the executor's turn
outside `RUNNING` has its three cases. -/
theorem aStepAnswersNextUnlessTheMachineIsHalted : Obligations.AStepAnswersNextUnlessTheMachineIsHalted := by
  unfold Obligations.AStepAnswersNextUnlessTheMachineIsHalted
  intro s
  by_cases hx : s.nextMove = .execute
  · rw [step_of_execute hx]
    rcases s.dropMove.executorStep_cases with ⟨-, h⟩ | ⟨-, h⟩ | ⟨f, hr, hf, h⟩
    · obtain ⟨t, ht⟩ := s.dropMove.instructionStep_next
      exact .inl ⟨t, h.trans ht⟩
    · exact .inl ⟨_, h⟩
    · exact .inr ⟨f, h, hr, hf, hx⟩
  · by_cases hreset : s.nextMove = .reset
    · exact .inl ⟨_, step_of_nextMove hreset⟩
    · obtain ⟨t, ht, -⟩ := State.perform_unchangedBut (s := s.dropMove) hx hreset
      exact .inl ⟨t, ht⟩

/-! ### The invariant -/

theorem State.Inv.of_orderly {s t : State} (hs : s.Inv) (h : Orderly s t) : t.Inv := by
  refine ⟨h.mem hs.mem, ?_, h.event hs.event⟩
  rcases h.latch with ⟨hrun, hfault⟩ | ⟨hrun, hfault⟩
  · rw [hrun, hfault]
    exact hs.latch
  · exact iff_of_true hfault hrun

theorem State.Inv.startRun {s : State} (hs : s.Inv) : s.startRun.Inv := by
  unfold State.startRun
  split
  · rename_i hboot
    have hnone : s.fault = none := by
      by_contra hfault
      cases hboot.symm.trans (hs.latch.1 hfault)
    exact ⟨hs.mem, by simp [hnone], hs.event⟩
  · exact hs

/-- Settles O10: an empty memory is canonical, and no fault and no key press are there. -/
theorem theResetStateMeetsTheInvariant : Obligations.TheResetStateMeetsTheInvariant :=
  ⟨Memory.wf_nil, by simp [State.reset], rfl⟩

/-- A host reset establishes the invariant from any state. -/
theorem State.inv_hostReset (s : State) : s.hostReset.Inv :=
  have h := theResetStateMeetsTheInvariant
  ⟨h.mem, h.latch, h.event⟩

theorem State.Inv.perform {s t : State} {m : Move} (hs : s.Inv) (h : s.perform m = .next t) : t.Inv := by
  by_cases hreset : m = .reset
  · subst hreset
    cases h
    exact s.inv_hostReset
  by_cases hstart : m = .start
  · subst hstart
    cases h
    exact hs.startRun
  · exact hs.of_orderly (State.perform_orderly h hreset fun hm => absurd hm hstart)

/-- Settles O9: dropping the move keeps the invariant, and so does every move: a reset establishes it, a start leaves the
latch empty, and the others are orderly. -/
theorem everyStepKeepsTheInvariant : Obligations.EveryStepKeepsTheInvariant := by
  unfold Obligations.EveryStepKeepsTheInvariant
  intro s t hs h
  have hdrop : s.dropMove.Inv := ⟨hs.mem, hs.latch, hs.event⟩
  exact hdrop.perform h

/-- Settles O12: past `BOOT` every move but a reset is orderly, and the invariant says that no fault is latched yet. -/
theorem aRunningMachineRunsOnOrHaltsWithACause : Obligations.ARunningMachineRunsOnOrHaltsWithACause := by
  unfold Obligations.ARunningMachineRunsOnOrHaltsWithACause
  intro s t hs hrun hreset h
  have hboot : s.dropMove.run ≠ .boot := by simp [hrun]
  rcases (State.perform_orderly h hreset fun _ => hboot).latch with ⟨htrun, htfault⟩ | ⟨htrun, htfault⟩
  · have hnone : s.fault = none := by
      by_contra hfault
      cases hrun.symm.trans (hs.latch.1 hfault)
    exact .inl ⟨htrun.trans hrun, htfault.trans hnone⟩
  · exact .inr ⟨htrun, Option.ne_none_iff_exists'.1 htfault⟩

/-- Settles O13: in `HALTED` only a key's level, a random byte and a reset are enabled. -/
theorem onlyAResetLeavesTheHaltedState : Obligations.OnlyAResetLeavesTheHaltedState := by
  unfold Obligations.OnlyAResetLeavesTheHaltedState
  intro s t hrun h
  refine ⟨fun hreset => ?_, fun hreset => ?_⟩
  · have hstill (ht : t = s.dropMove) : s.UnchangedBut t [.keyHeld, .random, .schedule] := ht ▸ .of_taking rfl
    have hidle (hx : s.nextMove ≠ .execute) (he : ¬ s.nextMove.enabledIn s.run) : t = s.dropMove := by
      cases (State.perform_of_not_enabled (s := s.dropMove) hx he).symm.trans h
      rfl
    cases hm : s.nextMove with
    | execute =>
      exact hstill (State.executorStep_next_of_not_running (by simp [hrun]) ((step_of_execute hm).symm.trans h))
    | setKey | supplyRandom =>
      cases (step_of_nextMove hm).symm.trans h
      exact .of_taking rfl
    | reset => exact absurd hm hreset
    | tick | keyPress | installFont | load | start =>
      exact hstill (hidle (by simp [hm]) (by simp [hm, hrun, Move.enabledIn]))
  · cases (step_of_nextMove hreset).symm.trans h
    exact ⟨rfl, rfl⟩

/-! ### Frames of the ticker's and the host's steps -/

/-- A step of the ticker or the host other than a reset changes the schedule and what its move writes. -/
theorem step_unchangedBut {s : State} {m : Move} (hm : s.nextMove = m) (hx : m ≠ .execute) (hr : m ≠ .reset) :
    ∃ t, step s = .next t ∧ s.UnchangedBut t (.schedule :: m.writes) := by
  obtain ⟨t, ht, hframe⟩ := State.perform_unchangedBut (s := s.dropMove) hx hr
  have hdrop : s.UnchangedBut s.dropMove (.schedule :: m.writes) := s.unchangedBut_dropMove.mono (by simp)
  exact ⟨t, (step_of_nextMove hm).trans ht, hdrop.trans (hframe.mono (by simp))⟩

theorem State.held_setKey (s : State) (k k' : Key) (held : Bool) :
    (s.setKey k held).held k' = if k' = k then held else s.held k' := by
  simp only [State.held, State.setKey_keyHeld, Vector.getElem_set, Fin.ext_iff, eq_comm]

/-- Settles O17: the step's frame is the schedule and the pieces its move writes. -/
theorem theOtherAgentsTouchOnlyTheirOwnState : Obligations.TheOtherAgentsTouchOnlyTheirOwnState := by
  unfold Obligations.TheOtherAgentsTouchOnlyTheirOwnState
  intro s
  refine ⟨fun hm => ?tick, fun k held hm => ?setKey, fun r hm => ?supplyRandom⟩
  case tick =>
    obtain ⟨t, ht, hframe⟩ := step_unchangedBut hm nofun nofun
    exact ⟨t, ht, hframe.mono (by simp [Move.writes])⟩
  case setKey =>
    refine ⟨s.dropMove.setKey k held, step_of_nextMove hm, ?_, fun k' hk => ?_, .of_taking rfl⟩
    · rw [State.held_setKey, if_pos rfl]
    · rw [State.held_setKey, if_neg hk]
      rfl
  case supplyRandom => exact ⟨s.dropMove.supplyRandom r, step_of_nextMove hm, rfl, rfl, .of_taking rfl⟩

/-- Settles O56: the step is the host's reset of the state without the move, field by field. -/
theorem aHostResetWorksInEveryRunState : Obligations.AHostResetWorksInEveryRunState := by
  unfold Obligations.AHostResetWorksInEveryRunState
  intro s hm
  exact ⟨s.dropMove.hostReset, step_of_nextMove hm, .of_taking rfl, rfl, ⟨rfl, rfl⟩, rfl⟩

/-! ### The timers -/

/-- No move of the ticker or the host raises a timer. -/
theorem State.perform_timers_le {s t : State} {m : Move} (h : s.perform m = .next t) (hx : m ≠ .execute) :
    t.dt.toNat ≤ s.dt.toNat ∧ t.st.toNat ≤ s.st.toNat := by
  cases m with
  | execute => exact absurd rfl hx
  | reset =>
    cases h
    exact ⟨Nat.zero_le _, Nat.zero_le _⟩
  | tick =>
    cases h
    unfold State.tickerStep
    split
    · simp only [State.tick_dt, State.tick_st, toNat_decrementIfPositive]
      omega
    · exact ⟨le_rfl, le_rfl⟩
  | installFont | load | start | setKey | keyPress | supplyRandom =>
    have hframe := State.unchangedBut_of_perform h nofun nofun
    have hdt : t.dt = s.dt := hframe .delay (by simp [Move.writes])
    have hst : t.st = s.st := hframe .sound (by simp [Move.writes])
    rw [hdt, hst]
    exact ⟨le_rfl, le_rfl⟩

/-- A piece other than `pc`, the run state and the latch that the executor's turn changed is one that the instruction at
`pc` writes. -/
theorem State.executorStep_changed {s t : State} (h : s.executorStep = .next t) {p : Part}
    (hp : p ∉ [.run, .fault, .pc]) (hchanged : ¬ s.sameOn t p) :
    s.run = .running ∧ ∃ w i, s.fetch = .ok w ∧ decode w = some i ∧ p ∈ writtenBy i := by
  rcases s.executorStep_cases with ⟨hr, h'⟩ | ⟨-, h'⟩ | ⟨f, -, -, h'⟩
  · rcases State.instructionStep_unchangedBut (h'.symm.trans h) with hframe | ⟨w, i, hf, hd, hframe⟩
    · exact absurd (hframe p hp) hchanged
    · refine ⟨hr, w, i, hf, hd, ?_⟩
      by_contra hnot
      exact hchanged (hframe p (by simp_all))
  · cases h'.symm.trans h
    exact absurd (State.UnchangedBut.refl s [] p (by simp)) hchanged
  · cases h'.symm.trans h

/-- Settles O18: no other move raises a timer, and what the executor's turn changed the instruction writes. -/
theorem aTimerRisesOnlyByItsSetInstruction : Obligations.ATimerRisesOnlyByItsSetInstruction := by
  unfold Obligations.ATimerRisesOnlyByItsSetInstruction
  intro s t h
  by_cases hx : s.nextMove = .execute
  · have hchanged {p : Part} := State.executorStep_changed (p := p) ((step_of_execute hx).symm.trans h)
    refine ⟨fun hlt => ?_, fun hlt => ?_⟩
    · obtain ⟨hr, w, i, hf, hd, hi⟩ := hchanged (p := .delay) (by simp) fun hsame => hlt.ne' (congrArg _ hsame)
      obtain ⟨x, rfl⟩ := delay_mem_writtenBy hi
      exact ⟨hr, hx, w, x, hf, hd⟩
    · obtain ⟨hr, w, i, hf, hd, hi⟩ := hchanged (p := .sound) (by simp) fun hsame => hlt.ne' (congrArg _ hsame)
      obtain ⟨x, rfl⟩ := sound_mem_writtenBy hi
      exact ⟨hr, hx, w, x, hf, hd⟩
  · obtain ⟨hdt, hst⟩ := State.perform_timers_le h hx
    exact ⟨fun hlt => absurd hlt hdt.not_gt, fun hlt => absurd hlt hst.not_gt⟩

end Sys2Proof.Machine
end

section
/-! PROOFS. Call and return across any steps in between (spec/41_control_flow.md R149): no step touches a stack entry below
both depths, but for a reset, which empties the stack. -/

namespace Sys2Proof.Machine

/-- An instruction leaves every entry below the depth it starts from. -/
theorem exec_keeps_lower_entries {i : Instr} {s t : State} (h : exec i s = .next t) {k : Nat} (hk : k < s.sp.val)
    (hk' : k < 1024) : t.stack[k] = s.stack[k] := by
  by_cases hi : .stack ∈ writtenBy i
  · obtain ⟨nnn, rfl⟩ := stack_mem_writtenBy hi
    by_cases hroom : s.sp.val < 1024
    · obtain ⟨u, hpush⟩ := State.exists_push? s.pc hroom
      cases (exec_call_of_push? hpush).symm.trans h
      exact (State.stack_push? hpush k hk').trans (if_neg hk.ne)
    · cases (exec_call_full (Nat.le_antisymm (Nat.le_of_lt_succ s.sp.isLt) (Nat.le_of_not_lt hroom))).symm.trans h
      rfl
  · have hsame : t.stack = s.stack := exec_unchangedBut h .stack (by simp [hi])
    rw [hsame]

/-- A move leaves every entry below the depth before it, or leaves the stack empty. -/
theorem State.perform_keeps_lower_entries {s t : State} {m : Move} (h : s.perform m = .next t) (hpos : 0 < t.sp.val)
    {k : Nat} (hk : k < s.sp.val) (hk' : k < 1024) : t.stack[k] = s.stack[k] := by
  cases m with
  | execute =>
    rcases s.executorStep_cases with ⟨-, h'⟩ | ⟨-, h'⟩ | ⟨f, -, -, h'⟩
    · rcases State.instructionStep_eq_next (h'.symm.trans h) with ⟨f, rfl⟩ | ⟨f, rfl⟩ | ⟨w, i, -, -, hexec⟩
      · rfl
      · rfl
      · exact exec_keeps_lower_entries hexec hk hk'
    · cases h'.symm.trans h
      rfl
    · cases h'.symm.trans h
  | reset =>
    cases h
    cases hpos
  | tick | installFont | load | start | setKey | keyPress | supplyRandom =>
    have hsame : t.stack = s.stack := State.unchangedBut_of_perform h nofun nofun .stack (by simp [Move.writes])
    rw [hsame]

/-- Along steps that never leave the stack below depth `n + 1`, that depth is kept and the entries below it stay. -/
theorem StepsAbove.keeps_lower_entries {n : Nat} {s t : State} (h : StepsAbove (n + 1) s t) (hs : n + 1 ≤ s.sp.val) :
    n + 1 ≤ t.sp.val ∧ ∀ k (hk : k < 1024), k < n + 1 → t.stack[k] = s.stack[k] := by
  induction h with
  | done => exact ⟨hs, fun _ _ _ => rfl⟩
  | more _ one deep ih =>
    obtain ⟨hdepth, hentries⟩ := ih
    refine ⟨deep, fun k hk hlow => ?_⟩
    have hstep := State.perform_keeps_lower_entries one (by omega) (k := k) (by simp; omega) hk
    exact hstep.trans (hentries k hk hlow)

/-- Settles O31: the call's entry is below the depth just after it, so it is still there when the return pops it. -/
theorem aReturnAtTheCallsDepthResumesAfterTheCall : Obligations.AReturnAtTheCallsDepthResumesAfterTheCall := by
  unfold Obligations.AReturnAtTheCallsDepthResumesAfterTheCall
  intro nnn s t u p hroom hcall hsteps hdepth
  obtain ⟨v, hpush⟩ := State.exists_push? s.pc hroom
  cases (exec_call_of_push? (nnn := nnn) hpush).symm.trans hcall
  have hsp : v.sp.val = s.sp.val + 1 := State.sp_push? hpush
  have hpos : 0 < (u.setPc p).sp.val := by
    rw [State.setPc_sp, hdepth, State.setPc_sp, hsp]
    exact Nat.succ_pos _
  obtain ⟨w, r, hpop⟩ := State.exists_pop? hpos
  obtain ⟨hk, ht, -, hw, rfl⟩ := State.pop?_eq_some hpop
  refine ⟨_, exec_ret_of_pop? hpop, ?pc, ?sp⟩
  case sp =>
    apply Fin.ext
    simp only [State.setPc_sp, hdepth, hsp, Nat.add_sub_cancel]
  case pc =>
    have hentry : v.stack[s.sp.val] = s.pc := (State.stack_push? hpush _ hroom).trans (if_pos rfl)
    rw [State.setPc_sp, hsp] at hsteps
    obtain ⟨-, hentries⟩ := hsteps.keeps_lower_entries (by rw [State.setPc_sp, hsp])
    have hsame := hentries s.sp.val hroom (Nat.lt_succ_self _)
    simp only [State.setPc_pc, hw, State.setPc_stack, State.setPc_sp, hdepth, hsp, Nat.add_sub_cancel]
    exact hsame.trans hentry

/-- Settles O34: the jump writes to `pc` the address it holds already. -/
theorem aJumpToItselfRests : Obligations.AJumpToItselfRests := by
  unfold Obligations.AJumpToItselfRests
  rintro s hrun hm ⟨w, nnn, hf, hd, haddr⟩
  rw [step_of_execute_running hm hrun, State.instructionStep_ok (s.fetch_dropMove.trans hf) hd]
  show Host.Outcome.next { s.dropMove with pc := zextAddr nnn } = .next s.dropMove
  rw [haddr]
  rfl

end Sys2Proof.Machine
end

section
/-! PROOFS. The key wait (spec/45_keypad_and_timers.md R202, spec/60_exceptions.md R242) and the timers
(spec/70_reset_and_hazards.md R273) along runs. -/

namespace Sys2Proof.Machine

/-! ### The key wait -/

/-- The frame without a piece that turns out unchanged. -/
theorem State.UnchangedBut.remove {s t : State} {p : Part} {parts : List Part} (h : s.UnchangedBut t (p :: parts))
    (hp : s.sameOn t p) : s.UnchangedBut t parts := by
  intro q hq
  by_cases hqp : q = p
  · exact hqp ▸ hp
  · exact h q (by simp [hqp, hq])

/-- Held in `FX0A` without a key press, an instruction step changes nothing. -/
theorem State.instructionStep_held {s : State} {w : Word} {x : Reg} (hf : s.fetch = .ok w)
    (hd : decode w = some (.ldVxK x)) (he : s.keyEvent = none) : s.instructionStep = .next s := by
  have hpc : s.pc + 2 - 2 = s.pc := BitVec.add_sub_cancel ..
  rw [State.instructionStep_ok hf hd]
  simp only [exec, execLdVxK, State.advance_keyEvent, he]
  show Host.Outcome.next { s with pc := s.pc + 2 - 2 } = .next s
  rw [hpc]

/-- Settles O50: held, a key press is the instruction with the key in hand, and the executor's turn changes nothing; at
any other time the executor is not held and the press is dropped. -/
theorem aKeyPressEndsAWaitAndNothingElse : Obligations.AKeyPressEndsAWaitAndNothingElse := by
  unfold Obligations.AKeyPressEndsAWaitAndNothingElse
  intro s he
  refine ⟨fun w x hrun hf hd => ?held, fun hother k hm => ?notHeld⟩
  case held =>
    have hf' := s.fetch_dropMove.trans hf
    refine ⟨fun k hm => ⟨_, (step_of_nextMove hm).trans (State.pressKey_waiting hrun hf' hd), ?_, fun r hr => ?_, rfl, ?_⟩,
      fun hm => ?_⟩
    · have hk : k.val < 2 ^ 8 := Nat.lt_trans k.isLt (by decide)
      simp only [State.setKeyEvent_reg, State.reg_setReg, if_true, BitVec.toNat_ofNat]
      exact Nat.mod_eq_of_lt hk
    · simp only [State.setKeyEvent_reg, State.reg_setReg, if_neg hr, State.advance_reg, State.dropMove_reg]
    · exact (State.UnchangedBut.of_taking (parts := [.keyEvent, .regs, .pc, .schedule]) rfl).remove he.symm
    · exact (step_of_execute_running hm hrun).trans (State.instructionStep_held hf' hd he)
  case notHeld =>
    have hwaits : ¬ s.dropMove.waitsForKey = true := fun hw => by
      obtain ⟨-, w, x, hf, hd⟩ := (State.waitsForKey_iff _).1 hw
      exact hother w x (s.fetch_dropMove.symm.trans hf) hd
    exact (step_of_nextMove hm).trans (if_neg hwaits)

/-- The fetch sees memory through its reads. -/
theorem State.fetch_of_sameOn {s t : State} (hm : s.sameOn t .mem) (hp : s.sameOn t .pc) : t.fetch = s.fetch := by
  have hpc : t.pc = s.pc := hp
  rw [State.fetch, State.fetch, hpc, hm, hm]

/-- What may change while the executor is held: the timers with their events, and what the host sets. -/
def heldFrame : List Part := [.delay, .sound, .emitted, .keyHeld, .random]

/-- An executor that is held stays held under any change of those pieces. -/
theorem State.waitsForKey_of_heldFrame {s t : State} (h : s.UnchangedBut t heldFrame) (hw : s.waitsForKey = true) :
    t.waitsForKey = true := by
  obtain ⟨hrun, w, x, hf, hd⟩ := (State.waitsForKey_iff s).1 hw
  have hrun' : t.run = s.run := h .run (by decide)
  have hfetch := State.fetch_of_sameOn (h .mem (by decide)) (h .pc (by decide))
  exact (State.waitsForKey_iff t).2 ⟨hrun'.trans hrun, w, x, hfetch.trans hf, hd⟩

/-- One turn of a held executor's machine, of any agent but the host's key press and reset. -/
theorem State.perform_held {s t : State} {m : Move} (h : s.perform m = .next t) (hw : s.waitsForKey = true)
    (he : s.keyEvent = none) (hreset : m ≠ .reset) (hpress : ∀ k, m ≠ .keyPress k) : s.UnchangedBut t heldFrame := by
  obtain ⟨hrun, w, x, hf, hd⟩ := (State.waitsForKey_iff s).1 hw
  have hidle (hx : m ≠ .execute) (hoff : ¬ m.enabledIn s.run) : s.UnchangedBut t heldFrame := by
    cases (State.perform_of_not_enabled hx hoff).symm.trans h
    exact .refl s _
  cases m with
  | execute =>
    have hturn := (State.executorStep_running hrun).trans (State.instructionStep_held hf hd he)
    cases hturn.symm.trans h
    exact .refl s _
  | reset => exact absurd rfl hreset
  | keyPress k => exact absurd rfl (hpress k)
  | installFont | load | start => exact hidle nofun (by simp [Move.enabledIn, hrun])
  | tick | setKey | supplyRandom =>
    exact (State.unchangedBut_of_perform h nofun nofun).mono (by simp [Move.writes, heldFrame])

/-- Settles O60: being held, with the frame from the first state, is kept by every turn of such a run. -/
theorem onlyTheHostLiftsAKeyWait : Obligations.OnlyTheHostLiftsAKeyWait := by
  unfold Obligations.OnlyTheHostLiftsAKeyWait
  intro states moves hrun he hw hmoves
  have hframe (n : Nat) : (states 0).UnchangedBut (states n) heldFrame := by
    refine hrun.always (P := fun t => (states 0).UnchangedBut t heldFrame) (.refl _ _) (fun n t hn ht => ?_) n
    have he' : (states n).keyEvent = (states 0).keyEvent := hn .keyEvent (by decide)
    exact hn.trans (State.perform_held ht (State.waitsForKey_of_heldFrame hn hw) (he'.trans he) (hmoves n).1 (hmoves n).2)
  exact fun n => ⟨State.waitsForKey_of_heldFrame (hframe n) hw, hframe n⟩

/-! ### The timers -/

/-- A number that never rises along a run and falls at every tick is 0 from some point of a fair run on. -/
theorem FairRun.eventually_zero {states : Nat → State} {moves : Nat → Move} (hfair : FairRun states moves)
    (hrunning : ∀ n, (states n).run = .running) (timer : State → Nat)
    (hle : ∀ n, timer (states (n + 1)) ≤ timer (states n))
    (htick : ∀ n, moves n = .tick → timer (states (n + 1)) = timer (states n) - 1) :
    ∃ n, ∀ k ≥ n, timer (states k) = 0 := by
  have hanti : Antitone fun n => timer (states n) := antitone_nat_of_succ_le hle
  have hreach (d : Nat) : ∀ n, timer (states n) ≤ d → ∃ m, timer (states m) = 0 := by
    induction d with
    | zero => exact fun n hn => ⟨n, Nat.le_zero.1 hn⟩
    | succ d ih =>
      intro n hn
      obtain ⟨k, hk, hmove⟩ := hfair.2.exists_tick hrunning n
      have hbefore : timer (states k) ≤ timer (states n) := hanti hk
      have hafter := htick k hmove
      exact ih (k + 1) (by omega)
  obtain ⟨m, hm⟩ := hreach _ 0 le_rfl
  exact ⟨m, fun k hk => Nat.le_zero.1 (hm ▸ hanti hk)⟩

/-- A tick's turn in `RUNNING` takes one from each timer above 0. -/
theorem State.perform_tick_running {s t : State} (hr : s.run = .running) (h : s.perform .tick = .next t) :
    t.dt.toNat = s.dt.toNat - 1 ∧ t.st.toNat = s.st.toNat - 1 := by
  have htick : s.perform .tick = .next s.tick := congrArg Host.Outcome.next (if_pos hr)
  cases htick.symm.trans h
  exact ⟨toNat_decrementIfPositive s.dt, toNat_decrementIfPositive s.st⟩

/-- Settles O59: a timer whose set instruction is never executed rises at no turn and falls at every tick, and fairness
brings ticks until it is 0. -/
theorem fairTicksBringAnUnsetTimerToZero : Obligations.FairTicksBringAnUnsetTimerToZero := by
  unfold Obligations.FairTicksBringAnUnsetTimerToZero
  intro states moves hfair hrunning
  have hrises (n : Nat) := aTimerRisesOnlyByItsSetInstruction _ _ (hfair.1 n)
  have hticks (n : Nat) (hm : moves n = .tick) := State.perform_tick_running (hrunning n) (hm ▸ hfair.1.perform n)
  refine ⟨fun hunset => ?delay, fun hunset => ?sound⟩
  case delay =>
    have hle (n : Nat) : (states (n + 1)).dt.toNat ≤ (states n).dt.toNat := by
      by_contra hlt
      obtain ⟨-, hmove, w, x, hf, hd⟩ := (hrises n).1 (Nat.lt_of_not_le hlt)
      exact hunset n w x hmove hf hd
    obtain ⟨n, hn⟩ := hfair.eventually_zero hrunning (·.dt.toNat) hle fun n hm => (hticks n hm).1
    exact ⟨n, fun k hk => BitVec.eq_of_toNat_eq (hn k hk)⟩
  case sound =>
    have hle (n : Nat) : (states (n + 1)).st.toNat ≤ (states n).st.toNat := by
      by_contra hlt
      obtain ⟨-, hmove, w, x, hf, hd⟩ := (hrises n).2 (Nat.lt_of_not_le hlt)
      exact hunset n w x hmove hf hd
    obtain ⟨n, hn⟩ := hfair.eventually_zero hrunning (·.st.toNat) hle fun n hm => (hticks n hm).2
    exact ⟨n, fun k hk => BitVec.eq_of_toNat_eq (hn k hk)⟩

/-- A run of one step more starts with that step. -/
theorem run_succ_of_step {n : Nat} {s t : State} (h : step s = .next t) :
    Sys2Proof.core.run (n + 1) s = Sys2Proof.core.run n t := by
  have hstep : Sys2Proof.core.step s = .next t := h
  simp only [Host.Core.run, hstep]

/-- `n` ticks before a schedule: the first, then the rest of them from the ticked state. -/
theorem run_tick_succ {s : State} (hr : s.run = .running) (n : Nat) :
    Sys2Proof.core.run (n + 1) { s with schedule := List.replicate (n + 1) .tick ++ s.schedule } =
      Sys2Proof.core.run n { s.tick with schedule := List.replicate n .tick ++ s.tick.schedule } :=
  run_succ_of_step (step_of_tick_running rfl hr)

/-- Settles O53: by induction on the number of ticks, the first of which takes one from each timer above 0. -/
theorem manyTicksCountDownAndSound : Obligations.ManyTicksCountDownAndSound := by
  unfold Obligations.ManyTicksCountDownAndSound
  intro n
  induction n with
  | zero => exact fun s _ => ⟨s, rfl, rfl, rfl, by simp, .refl s _⟩
  | succ n ih =>
    intro s hr
    obtain ⟨t, hrun, hdt, hst, hemitted, hframe⟩ := ih s.tick hr
    have hdt' := toNat_decrementIfPositive s.dt
    have hst' := toNat_decrementIfPositive s.st
    rw [State.tick_dt, hdt'] at hdt
    rw [State.tick_st, hst'] at hst hemitted
    refine ⟨t, (run_tick_succ hr n).trans hrun, by omega, by omega, ?_, s.unchangedBut_tick.trans hframe⟩
    rw [hemitted, State.tick_emitted]
    by_cases hzero : s.st = 0
    · simp [hzero]
    · have hpos : 0 < s.st.toNat := Nat.pos_of_ne_zero fun h => hzero (BitVec.eq_of_toNat_eq h)
      have hcount : min (n + 1) s.st.toNat = min n (s.st.toNat - 1) + 1 := by omega
      rw [if_neg hzero, hcount, List.replicate_succ', List.append_assoc, List.singleton_append]

end Sys2Proof.Machine
end

section
/-! PROOFS. The remaining instructions of registers, `pc`, index, keypad and timers: each is one of the named updates, read
back and framed (spec/40_alu.md, 41_control_flow.md, 42_random_and_index.md, 45_keypad_and_timers.md). -/

namespace Sys2Proof.Machine

/-! ### Arithmetic and logic -/

/-- A write of one register, read back at every register, with its frame. -/
theorem State.setReg_effect (s : State) (x : Reg) (b : Byte) :
    (∀ r, (s.setReg x b).reg r = if r = x then b else s.reg r) ∧ s.UnchangedBut (s.setReg x b) [.regs] :=
  ⟨fun r => s.reg_setReg x r b, s.unchangedBut_setReg x b⟩

/-- Settles O20: each of the four is one write of the destination, with operands read before it. -/
theorem copyAndLogicWriteOnlyTheDestination : Obligations.CopyAndLogicWriteOnlyTheDestination := by
  unfold Obligations.CopyAndLogicWriteOnlyTheDestination
  intro x y s
  exact ⟨⟨_, rfl, s.setReg_effect x _⟩, ⟨_, rfl, s.setReg_effect x _⟩, ⟨_, rfl, s.setReg_effect x _⟩,
    ⟨_, rfl, s.setReg_effect x _⟩⟩

/-- Settles O24: the instruction is a flagged write of the difference of `V[y]` and `V[x]`, both read before it. -/
theorem subtractReversedTakesXFromY : Obligations.SubtractReversedTakesXFromY := by
  unfold Obligations.SubtractReversedTakesXFromY
  intro x y s
  exact ⟨s.writeFlagged x (subNoBorrow (s.reg y) (s.reg x)), rfl, State.writeFlagged_subNoBorrow rfl⟩

theorem shiftRight_shiftLeft (a : Byte) : a >>> 1 <<< 1 = a &&& 0xFE := by
  ext j hj
  interval_cases j <;> simp

theorem shiftLeft_shiftRight (a : Byte) : a <<< 1 >>> 1 = a &&& 0x7F := by
  ext j hj
  interval_cases j <;> simp

/-- Settles O27: the second shift reads from `V[x]` what the first left there, the flag being elsewhere. -/
theorem oppositeShiftsClearTheEndBit : Obligations.OppositeShiftsClearTheEndBit := by
  unfold Obligations.OppositeShiftsClearTheEndBit
  intro x s hx
  have hresult (u : State) (f : Flagged) : (u.writeFlagged x f).reg x = f.result :=
    (State.writeFlagged_effect rfl).2.1 hx
  refine ⟨⟨_, _, rfl, rfl, ?_⟩, ⟨_, _, rfl, rfl, ?_⟩⟩
  · rw [hresult, hresult, shiftLeftOne_result, shiftRightOne_result, shiftRight_shiftLeft]
  · rw [hresult, hresult, shiftRightOne_result, shiftLeftOne_result, shiftLeft_shiftRight]

/-! ### Control flow -/

theorem State.toNat_regWord (s : State) (x : Reg) : (s.regWord x).toNat = (s.reg x).toNat := by
  have hlt := (s.reg x).toNat_lt
  rw [State.regWord, BitVec.toNat_setWidth]
  omega

/-- Settles O33: the sum is less than 65536, so `pc` holds it whole. -/
theorem offsetJumpAddsRegisterZero : Obligations.OffsetJumpAddsRegisterZero := by
  unfold Obligations.OffsetJumpAddsRegisterZero
  intro nnn s
  refine ⟨s.setPc (zextAddr nnn + s.regWord 0), rfl, ?_, s.unchangedBut_setPc _⟩
  have haddr := nnn.toNat_lt
  have hreg := (s.reg 0).toNat_lt
  rw [State.setPc_pc, BitVec.toNat_add, toNat_zextAddr, s.toNat_regWord]
  exact Nat.mod_eq_of_lt (show nnn.toNat + (s.reg 0).toNat < 65536 by omega)

/-! ### Random and index -/

/-- Settles O35: the draw is the queue's head or the free value, and one register write follows it. -/
theorem randomWritesTheMaskedDraw : Obligations.RandomWritesTheMaskedDraw := by
  unfold Obligations.RandomWritesTheMaskedDraw
  intro x nn s
  refine ⟨s.drawRandom.2.setReg x (s.drawRandom.1 &&& nn), rfl, ?_⟩
  rw [State.drawRandom_eq]
  refine ⟨fun r rest hq => ?supplied, fun hq => ?free, rfl, fun r hr => ?others, .of_taking rfl⟩
  case supplied => simp [hq]
  case free => simp [hq]
  case others => exact (State.reg_setReg ..).trans (if_neg hr)

theorem State.unchangedBut_setI (s : State) (w : Word) : s.UnchangedBut (s.setI w) [.index] := .of_taking rfl

theorem State.val_lowNibble (s : State) (x : Reg) : (s.lowNibble x).val = (s.reg x).toNat % 16 := by
  simp [State.lowNibble, Fin.ofNat]

/-- Settles O36: each of the three is one write of `I`. -/
theorem indexInstructionsWriteOnlyTheIndex : Obligations.IndexInstructionsWriteOnlyTheIndex := by
  unfold Obligations.IndexInstructionsWriteOnlyTheIndex
  intro nnn x s
  refine ⟨⟨_, rfl, toNat_zextAddr nnn, s.unchangedBut_setI _⟩, ⟨_, rfl, ?_, s.unchangedBut_setI _⟩,
    ⟨_, rfl, ?_, s.unchangedBut_setI _⟩⟩
  · rw [State.setI_i, BitVec.toNat_add, s.toNat_regWord]
    rfl
  · rw [State.setI_i, toNat_glyphAddr, State.val_lowNibble]

/-! ### Keypad and timers -/

/-- Settles O48: both are skips, on the level of the key that the low nibble names and on its negation. -/
theorem keySkipsFollowTheHeldKey : Obligations.KeySkipsFollowTheHeldKey := by
  unfold Obligations.KeySkipsFollowTheHeldKey
  intro x s k hk
  have hkey : s.lowNibble x = k := Fin.ext ((s.val_lowNibble x).trans hk.symm)
  have hheld : s.held (s.lowNibble x) = true ↔ s.keyHeld[k.val] = true := by rw [hkey, State.held]
  obtain ⟨hpc, hframe⟩ := s.skipIf_effect (c := !s.held (s.lowNibble x)) (p := ¬ s.keyHeld[k.val] = true)
    (by rw [← hheld, Bool.not_eq_true', Bool.not_eq_true])
  exact ⟨⟨_, rfl, s.skipIf_effect hheld⟩, ⟨_, rfl, hpc.trans (ite_not ..), hframe⟩⟩

/-- Settles O49: with a key in hand one register write that uses it up; without one `pc` goes back by an instruction. -/
theorem keyWaitTakesAPressOrHolds : Obligations.KeyWaitTakesAPressOrHolds := by
  unfold Obligations.KeyWaitTakesAPressOrHolds
  intro x s
  refine ⟨fun k he => ?taken, fun he => ?holds⟩
  case taken =>
    have hk : k.val < 2 ^ 8 := Nat.lt_trans k.isLt (by decide)
    refine ⟨(s.setReg x (BitVec.ofNat 8 k.val)).setKeyEvent none, ?_, ?_, fun r hr => ?_, rfl, .of_taking rfl⟩
    · simp only [exec, execLdVxK, he]
    · rw [State.setKeyEvent_reg, State.reg_setReg, if_pos rfl, BitVec.toNat_ofNat, Nat.mod_eq_of_lt hk]
    · rw [State.setKeyEvent_reg, State.reg_setReg, if_neg hr]
  case holds =>
    refine ⟨s.setPc (s.pc - 2), ?_, BitVec.sub_add_cancel .., s.unchangedBut_setPc _⟩
    simp only [exec, execLdVxK, he]
    rfl

/-- Settles O51: one write each, of the register or of the timer. -/
theorem timerInstructionsReadAndSetTheTimers : Obligations.TimerInstructionsReadAndSetTheTimers := by
  unfold Obligations.TimerInstructionsReadAndSetTheTimers
  intro x s
  exact ⟨⟨_, rfl, s.setReg_effect x _⟩, ⟨s.setDt (s.reg x), rfl, rfl, .of_taking rfl⟩,
    ⟨s.setSt (s.reg x), rfl, rfl, .of_taking rfl⟩⟩

end Sys2Proof.Machine
end

section
/-! PROOFS. The draw and the presenter's grid (spec/43_display.md R171 to R180, spec/60_exceptions.md R243). -/

namespace Sys2Proof.Machine

/-! ### The draw -/

/-- The points of a sprite are the pixels that the draw draws, in the words of the spec. -/
theorem State.mem_sprite {s : State} {x y : Reg} {n : Nat} {q : Point} : q ∈ s.sprite x y n ↔ s.drawsOn x y n q := by
  rw [State.sprite, mem_spritePoints, State.drawsOn]
  simp [State.originX, State.originY, Fin.ofNat, State.base]

theorem State.nodup_sprite (s : State) (x y : Reg) (n : Nat) : (s.sprite x y n).Nodup := nodup_spritePoints ..

theorem State.pixel_drawn_of_drawsOn {s : State} {x y : Reg} {n : Nat} {q : Point} (h : s.drawsOn x y n q) :
    (s.drawn x y n).fb.pixel q = !s.fb.pixel q := by
  have hpixel := blit_pixel (s.nodup_sprite x y n) s.fb q
  rw [decide_eq_true (State.mem_sprite.2 h), Bool.xor_true] at hpixel
  exact hpixel

theorem State.pixel_drawn_of_not_drawsOn {s : State} {x y : Reg} {n : Nat} {q : Point} (h : ¬ s.drawsOn x y n q) :
    (s.drawn x y n).fb.pixel q = s.fb.pixel q := by
  have hpixel := blit_pixel (s.nodup_sprite x y n) s.fb q
  rw [decide_eq_false (mt State.mem_sprite.1 h), Bool.xor_false] at hpixel
  exact hpixel

/-- The draw collides exactly when a drawn pixel was on. -/
theorem State.blit_sprite_collided {s : State} {x y : Reg} {n : Nat} :
    (blit s.fb (s.sprite x y n)).2 = true ↔ ∃ q, s.drawsOn x y n q ∧ s.fb.pixel q = true := by
  rw [blit_collided (s.nodup_sprite x y n), List.any_eq_true]
  exact exists_congr fun q => and_congr_left fun _ => State.mem_sprite

/-- Register 15 after a draw is its collision flag. -/
theorem State.reg15_drawn (s : State) (x y : Reg) (n : Nat) :
    (s.drawn x y n).reg 15 = if (blit s.fb (s.sprite x y n)).2 then 1 else 0 :=
  (State.reg_setFlag ..).trans (if_pos rfl)

theorem State.reg15_drawn_eq_one {s : State} {x y : Reg} {n : Nat} :
    (s.drawn x y n).reg 15 = 1 ↔ ∃ q, s.drawsOn x y n q ∧ s.fb.pixel q = true := by
  rw [State.reg15_drawn, ← State.blit_sprite_collided]
  cases (blit s.fb (s.sprite x y n)).2 <;> simp

theorem State.reg_drawn {s : State} {x y r : Reg} {n : Nat} (h : r ≠ 15) : (s.drawn x y n).reg r = s.reg r :=
  (State.reg_setFlag ..).trans (if_neg h)

/-- Settles O38: the blit of the sprite's points, each of which it inverts once, and the flag of its collision. -/
theorem drawInvertsTheSpritesPixelsAndFlagsCollision : Obligations.DrawInvertsTheSpritesPixelsAndFlagsCollision := by
  unfold Obligations.DrawInvertsTheSpritesPixelsAndFlagsCollision
  intro x y n s hin
  refine ⟨s.drawn x y n, exec_drw_inside hin, fun q => State.pixel_drawn_of_drawsOn,
    fun q => State.pixel_drawn_of_not_drawsOn, State.reg15_drawn_eq_one.2, fun hnone => ?_, fun r => State.reg_drawn, rfl,
    .of_taking rfl⟩
  rw [State.reg15_drawn, if_neg (mt State.blit_sprite_collided.1 hnone)]

/-- A drawn pixel lies in the 8 by `n` rectangle from the origin. -/
theorem State.drawsOn_inside {s : State} {x y : Reg} {n : Nat} {q : Point} (h : s.drawsOn x y n q) :
    (s.reg x).toNat % 64 ≤ q.1.val ∧ q.1.val < (s.reg x).toNat % 64 + 8 ∧
      (s.reg y).toNat % 32 ≤ q.2.val ∧ q.2.val < (s.reg y).toNat % 32 + n := by
  obtain ⟨r, hr, c, hc, hcolumn, hrow, -⟩ := h
  omega

/-- Settles O39: a changed pixel, and a pixel that collided, are drawn pixels. -/
theorem aSpriteIsClippedAtTheEdges : Obligations.ASpriteIsClippedAtTheEdges := by
  unfold Obligations.ASpriteIsClippedAtTheEdges
  intro x y n s t h hrun
  by_cases hin : n = 0 ∨ s.i.toNat + n ≤ 4096
  · cases (exec_drw_inside hin).symm.trans h
    refine ⟨fun q hq => ?_, fun hflag => ?_⟩
    · by_contra hout
      exact hq (State.pixel_drawn_of_not_drawsOn fun hdraws => hout (State.drawsOn_inside hdraws))
    · obtain ⟨q, hdraws, hon⟩ := State.reg15_drawn_eq_one.1 hflag
      exact ⟨q, hon, State.drawsOn_inside hdraws⟩
  · cases (exec_drw_outside (by omega) (by omega)).symm.trans h
    exact absurd rfl hrun

/-- With operands other than register 15, the second of two draws draws the same pixels. -/
theorem State.drawsOn_drawn {s : State} {x y : Reg} {n : Nat} (hx : x ≠ 15) (hy : y ≠ 15) (q : Point) :
    (s.drawn x y n).drawsOn x y n q ↔ s.drawsOn x y n q := by
  rw [State.drawsOn, State.reg_drawn hx, State.reg_drawn hy]
  rfl

/-- A pixel that the draw turned from `b` to the other value is a drawn one that was `b`. -/
theorem State.drawsOn_iff_changed {s : State} {x y : Reg} {n : Nat} {q : Point} {b : Bool} :
    s.drawsOn x y n q ∧ s.fb.pixel q = b ↔ s.fb.pixel q = b ∧ (s.drawn x y n).fb.pixel q = !b := by
  by_cases hdraws : s.drawsOn x y n q
  · simp only [hdraws, true_and, State.pixel_drawn_of_drawsOn hdraws, Bool.not_inj_iff, and_self]
  · rw [State.pixel_drawn_of_not_drawsOn hdraws]
    cases b <;> simp [hdraws]

/-- Settles O40: the second draw inverts the same pixels again, and collides in those that the first turned on. -/
theorem drawingTwiceRestoresTheDisplay : Obligations.DrawingTwiceRestoresTheDisplay := by
  unfold Obligations.DrawingTwiceRestoresTheDisplay
  intro x y n s hx hy hin
  have hsame := State.drawsOn_drawn (s := s) (n := n) hx hy
  refine ⟨s.drawn x y n, (s.drawn x y n).drawn x y n, exec_drw_inside hin, exec_drw_inside hin, fun q => ?display,
    State.reg15_drawn_eq_one.trans (exists_congr fun q => ?second),
    State.reg15_drawn_eq_one.trans (exists_congr fun q => State.drawsOn_iff_changed (b := true))⟩
  case display =>
    by_cases hdraws : s.drawsOn x y n q
    · rw [State.pixel_drawn_of_drawsOn ((hsame q).2 hdraws), State.pixel_drawn_of_drawsOn hdraws, Bool.not_not]
    · rw [State.pixel_drawn_of_not_drawsOn (mt (hsame q).1 hdraws), State.pixel_drawn_of_not_drawsOn hdraws]
  case second =>
    have hon (hdraws : s.drawsOn x y n q) : (s.drawn x y n).fb.pixel q = true ↔ s.fb.pixel q = false := by
      rw [State.pixel_drawn_of_drawsOn hdraws, Bool.not_eq_true']
    rw [hsame q, and_congr_right hon]
    exact State.drawsOn_iff_changed (b := false)

/-! ### The presenter's grid -/

/-- In rows of one length laid end to end, entry `k` of row `j` is at `j` rows and `k`. -/
theorem getElem?_flatten_of_length {α : Type} {rows : List (List α)} {n : Nat} (h : ∀ row ∈ rows, row.length = n)
    {j k : Nat} (hk : k < n) : rows.flatten[j * n + k]? = rows[j]?.bind (·[k]?) := by
  induction rows generalizing j with
  | nil => simp
  | cons row rows ih =>
    have hrow : row.length = n := h row List.mem_cons_self
    rw [List.flatten_cons]
    cases j with
    | zero => simp [List.getElem?_append_left (hrow ▸ hk)]
    | succ j =>
      have hindex : (j + 1) * n + k = row.length + (j * n + k) := by rw [hrow]; ring
      rw [hindex, List.getElem?_append_right (Nat.le_add_right ..), Nat.add_sub_cancel_left,
        ih fun row hmem => h row (List.mem_cons_of_mem _ hmem), List.getElem?_cons_succ]

/-- Settles O41: the grid is 32 rows of 64 pixels laid end to end. -/
theorem theFlatGridIsRowMajor : Obligations.TheFlatGridIsRowMajor := by
  unfold Obligations.TheFlatGridIsRowMajor
  intro s p
  have hrows : ∀ row ∈ s.fb.toList.map Vector.toList, row.length = 64 := by simp
  refine ⟨?_, ?_⟩
  · rw [State.flatGrid, getElem?_flatten_of_length hrows p.1.isLt]
    simp [Display.pixel]
  · simp [State.flatGrid, List.length_flatten, Function.comp_def]

end Sys2Proof.Machine
end

section
/-! PROOFS. Memory transfer (spec/44_memory_transfer.md): what memory reads as after a stored run, and the instructions
from it. -/

namespace Sys2Proof.Machine

/-- Inside a written run memory reads as the run. -/
theorem Memory.read_writeBytes_inside {m : Memory} {bs : List Byte} {a k : Nat} (hm : m.wf) (ha : a + bs.length ≤ 4096)
    (hk : k < bs.length) : (m.writeBytes a bs).read (a + k) = bs.getD k 0 := by
  rw [Memory.read_writeBytes hm ha, if_pos (by omega), Nat.add_sub_cancel_left]

/-- Outside a written run memory reads as before. -/
theorem Memory.read_writeBytes_outside {m : Memory} {bs : List Byte} {a b : Nat} (hm : m.wf)
    (ha : a + bs.length ≤ 4096) (hb : b < a ∨ a + bs.length ≤ b) : (m.writeBytes a bs).read b = m.read b := by
  rw [Memory.read_writeBytes hm ha, if_neg (by omega)]

theorem State.unchangedBut_setMem (s : State) (m : Memory) : s.UnchangedBut (s.setMem m) [.mem] := .of_taking rfl

/-! ### The digits -/

/-- A stored digit, in numbers. -/
theorem toNat_getD_bcdDigits (b : Byte) :
    ((bcdDigits b).getD 0 0).toNat = b.toNat / 100 ∧ ((bcdDigits b).getD 1 0).toNat = b.toNat / 10 % 10 ∧
      ((bcdDigits b).getD 2 0).toNat = b.toNat % 10 := by
  have hb := b.toNat_lt
  have hnarrow (d : Nat) (hd : d < 256) : (BitVec.ofNat Config.regWidth d).toNat = d := Nat.mod_eq_of_lt hd
  exact ⟨hnarrow _ (by omega), hnarrow _ (by omega), hnarrow _ (by omega)⟩

/-- Settles O42: the three digits are one stored run of three bytes, checked whole. -/
theorem bcdStoresThreeDigits : Obligations.BcdStoresThreeDigits := by
  unfold Obligations.BcdStoresThreeDigits
  intro x s hm
  refine ⟨fun hin => ⟨_, exec_ldB_inside hin, ?_⟩, exec_ldB_outside⟩
  have hlen := length_bcdDigits (s.reg x)
  have hread (k : Nat) (hk : k < 3) := Memory.read_writeBytes_inside (bs := bcdDigits (s.reg x)) hm
    (a := s.i.toNat) (k := k) (by omega) (by omega)
  obtain ⟨hhundreds, htens, hones⟩ := toNat_getD_bcdDigits (s.reg x)
  refine ⟨(congrArg BitVec.toNat (hread 0 (by decide))).trans hhundreds,
    (congrArg BitVec.toNat (hread 1 (by decide))).trans htens,
    (congrArg BitVec.toNat (hread 2 (by decide))).trans hones, fun a ha => ?_, s.unchangedBut_setMem _⟩
  exact Memory.read_writeBytes_outside hm (by omega) (by omega)

/-- Settles O43: the three stored bytes are the digits of the value. -/
theorem bcdDigitsMakeUpTheValue : Obligations.BcdDigitsMakeUpTheValue := by
  unfold Obligations.BcdDigitsMakeUpTheValue
  intro x s t hm hin h
  obtain ⟨u, hu, hhundreds, htens, hones, -⟩ := (bcdStoresThreeDigits x s hm).1 hin
  cases hu.symm.trans h
  have hvalue := (s.reg x).toNat_lt
  refine ⟨by omega, fun k hk => ?_⟩
  interval_cases k
  · rw [Nat.add_zero, hhundreds]
    omega
  · omega
  · omega

/-! ### The register dump and the register load -/

/-- Settles O44: the registers up to `x` are one stored run, checked whole. -/
theorem dumpStoresRegistersUpToX : Obligations.DumpStoresRegistersUpToX := by
  unfold Obligations.DumpStoresRegistersUpToX
  intro x s hm
  refine ⟨fun hin => ⟨_, exec_dump_inside hin, fun r hr => ?_, fun a ha => ?_, s.unchangedBut_setMem _⟩,
    exec_dump_outside⟩
  · have hr' : r.val ≤ x.val := hr
    refine (Memory.read_writeBytes_inside hm ?_ ?_).trans (s.getD_regsUpTo x r hr) <;>
      rw [State.length_regsUpTo] <;> omega
  · refine Memory.read_writeBytes_outside hm ?_ ?_ <;> rw [State.length_regsUpTo] <;> omega

/-- Settles O45: the loaded registers are read from `I` upwards, all addresses checked before. -/
theorem loadFillsRegistersUpToX : Obligations.LoadFillsRegistersUpToX := by
  unfold Obligations.LoadFillsRegistersUpToX
  intro x s
  exact ⟨fun hin => ⟨_, exec_load_inside hin, fun r => s.reg_loadRegs x r _, .of_taking rfl⟩, exec_load_outside⟩

/-- Settles O46: the dump leaves `I`, and the load reads at `I` what the dump stored there. -/
theorem aLoadAfterADumpRestoresTheRegisters : Obligations.ALoadAfterADumpRestoresTheRegisters := by
  unfold Obligations.ALoadAfterADumpRestoresTheRegisters
  intro x s t v p hm hin h
  obtain ⟨t', ht', hstored, -, hframe⟩ := (dumpStoresRegistersUpToX x s hm).1 hin
  cases ht'.symm.trans h
  have hi : t.i = s.i := hframe .index (by decide)
  refine ⟨_, exec_load_inside (by simpa [hi] using hin), fun r hr => ?_, fun r hr => ?_, rfl⟩
  · rw [State.reg_loadRegs, if_pos hr]
    show t.mem.read (t.i.toNat + r.val) = s.reg r
    rw [hi, hstored r hr]
  · rw [State.reg_loadRegs, if_neg (not_le_of_gt hr)]
    rfl

/-- Settles O47: the fetch reads, at two addresses of the stored run, the two registers stored there. -/
theorem aStoreIsSeenByTheVeryNextFetch : Obligations.AStoreIsSeenByTheVeryNextFetch := by
  unfold Obligations.AStoreIsSeenByTheVeryNextFetch
  intro x k hk s hm hin hpc
  obtain ⟨t, ht, hstored, -, hframe⟩ := (dumpStoresRegistersUpToX x s hm).1 hin
  have hx := Reg.val_lt x
  have hpc' : t.pc.toNat = s.i.toNat + k := (congrArg BitVec.toNat (hframe .pc (by decide))).trans hpc
  have hhigh := hstored ⟨k, by omega⟩ hk.le
  have hlow := hstored ⟨k + 1, by omega⟩ (Nat.succ_le_of_lt hk)
  refine ⟨t, _, ht, State.fetch_inside (by omega), ?_⟩
  rw [toNat_wordOfBytes, hpc', Nat.add_assoc, hhigh, hlow]

end Sys2Proof.Machine
end

section
/-! PROOFS. Reset, boot and load (spec/10_state.md R38, spec/70_reset_and_hazards.md R260 to R268). -/

namespace Sys2Proof.Machine

/-- Settles O55: the fields of the reset state. -/
theorem resetLeavesTheListedValues : Obligations.ResetLeavesTheListedValues := by
  unfold Obligations.ResetLeavesTheListedValues
  refine ⟨Memory.read_nil, fun r => ?_, rfl, rfl, fun k hk => ?_, rfl, rfl, rfl, Display.pixel_clear, rfl, rfl⟩
  · simp [State.reg, State.reset]
  · simp [State.reset]

theorem State.loadProgram_of_le {s : State} {program : List Byte} (hboot : s.run = .boot)
    (hsize : program.length ≤ 3584) : s.loadProgram program = s.setMem (s.mem.writeBytes 0x200 program) :=
  (if_pos hboot).trans (if_neg (Nat.not_lt_of_le hsize))

theorem State.loadProgram_of_gt {s : State} {program : List Byte} (hboot : s.run = .boot)
    (hsize : 3584 < program.length) : s.loadProgram program = s.emit .capacityError :=
  (if_pos hboot).trans (if_pos hsize)

/-- Settles O57: a program that fits is one written run at 0x200; a larger one is an event. -/
theorem loadingAProgramIsAllOrNothing : Obligations.LoadingAProgramIsAllOrNothing := by
  unfold Obligations.LoadingAProgramIsAllOrNothing
  intro program s hm hboot hmove
  have hstep : step s = .next (s.dropMove.loadProgram program) := step_of_nextMove hmove
  have hboot' : s.dropMove.run = .boot := hboot
  refine ⟨fun hsize => ?_, fun hsize => ?_⟩
  · rw [hstep, State.loadProgram_of_le hboot' hsize]
    refine ⟨_, rfl, fun k hk => ?_, fun a ha => ?_, .of_taking rfl⟩
    · exact (Memory.read_writeBytes_inside hm (by omega) hk).trans (List.getD_eq_getElem _ _ hk)
    · exact Memory.read_writeBytes_outside hm (by omega) ha
  · rw [hstep, State.loadProgram_of_gt hboot' hsize]
    exact ⟨_, rfl, rfl, .of_taking rfl⟩

/-- The three boot moves lead to the launch state. -/
theorem run_boot (font : Vector Byte 80) {program : List Byte} (hsize : program.length ≤ 3584) :
    Sys2Proof.core.run 3 { State.reset with schedule := [.installFont font, .load program, .start] } =
      .next (State.launch font program) := by
  have hload : step { State.reset with mem := Memory.writeBytes [] 0 font.toList, schedule := [.load program, .start] } =
      .next { State.launch font program with run := .boot, schedule := [.start] } :=
    congrArg Host.Outcome.next (State.loadProgram_of_le rfl hsize)
  exact (run_succ_of_step rfl).trans ((run_succ_of_step hload).trans (run_succ_of_step rfl))

/-- What memory reads as in the launch state. -/
theorem State.read_launch {font : Vector Byte 80} {program : List Byte} (hsize : program.length ≤ 3584) :
    (∀ (k : Nat) (h : k < 80), (State.launch font program).mem.read k = font[k]) ∧
      (∀ (k : Nat) (h : k < program.length), (State.launch font program).mem.read (0x200 + k) = program[k]) ∧
      ∀ a, (80 ≤ a ∧ a < 0x200) ∨ 0x200 + program.length ≤ a → (State.launch font program).mem.read a = 0 := by
  have hlen : font.toList.length = 80 := by simp
  have hfont : (Memory.writeBytes [] 0 font.toList).wf := Memory.writeBytes_wf Memory.wf_nil (by omega)
  have hfits : 0x200 + program.length ≤ 4096 := by omega
  have hbelow {a : Nat} (ha : a < 0x200 ∨ 0x200 + program.length ≤ a) :
      (State.launch font program).mem.read a = (Memory.writeBytes [] 0 font.toList).read a :=
    Memory.read_writeBytes_outside hfont hfits ha
  refine ⟨fun k hk => ?_, fun k hk => ?_, fun a ha => ?_⟩
  · have hread := Memory.read_writeBytes_inside (bs := font.toList) (a := 0) (k := k) Memory.wf_nil (by omega) (by omega)
    rw [Nat.zero_add, List.getD_eq_getElem _ _ (by omega), Vector.getElem_toList] at hread
    exact (hbelow (by omega)).trans hread
  · exact (Memory.read_writeBytes_inside hfont hfits hk).trans (List.getD_eq_getElem _ _ hk)
  · exact (hbelow (by omega)).trans (Memory.read_writeBytes_outside Memory.wf_nil (by omega) (by omega))

/-- Settles O58: the run ends in the launch state, whose memory is read piece by piece. -/
theorem bootLeadsToTheLaunchState : Obligations.BootLeadsToTheLaunchState := by
  unfold Obligations.BootLeadsToTheLaunchState
  intro font program hsize
  obtain ⟨hfont, hprogram, hrest⟩ := State.read_launch (font := font) hsize
  exact ⟨State.launch font program, run_boot font hsize, hfont, hprogram, hrest, rfl, rfl, .of_taking rfl⟩

/-- Settles O54: `pc` is 0x200 in the launch state, so the fetch is inside memory, and the first step is an instruction
step. -/
theorem theFirstInstructionIsAt0x200 : Obligations.TheFirstInstructionIsAt0x200 := by
  unfold Obligations.TheFirstInstructionIsAt0x200
  refine ⟨rfl, fun font program => ?_⟩
  have hpc : (State.launch font program).pc = 0x200#16 := rfl
  have hfetch := State.fetch_inside (s := State.launch font program) (by rw [hpc]; decide)
  refine ⟨_, hfetch, toNat_wordOfBytes .., fun i hd => ?_⟩
  obtain ⟨-, -, hexecutes⟩ := (aStepFetchesAdvancesDecodesAndExecutes (State.launch font program) rfl).1 rfl
  exact hexecutes _ i hfetch hd

end Sys2Proof.Machine
end
